-- ==== Sys2Proof/Word.lean ====
section
/-! DEFINITION. The plainest types of the model: a byte, and the spec's opaque type of bands. -/

namespace Sys2Proof

/-- A byte of a half-frame, payload or datagram; bit 7 is the most significant (R7). -/
abbrev Byte := BitVec 8

/-- The opaque type `Band` of `TP.band` (R43, D23): a tag that only `ANT_ROUTE` reads.
DESIGN CHOICE (log entry 10): a natural number. -/
abbrev Band := Nat

end Sys2Proof
end

