-- ==== Sys2Proof/Config.lean ====
section
/-! DEFINITION. What an implementation fixes (the parameters of R6, as plain data) and the free values.
The default of every parameter is in Machine/Defaults.lean. -/

namespace Sys2Proof.Config

/-- `FRAME_LEN` (R6, fixed): the length of a half-frame. The types of the model write it as 512. -/
abbrev frameLen : Nat := 512

/-- `HDR_LEN` (R6, fixed): SYNC plus the five control bytes. -/
abbrev hdrLen : Nat := 8

/-- `PAYLOAD_LEN` (R6, fixed): the bytes after the header. -/
abbrev payloadLen : Nat := 504

/-- `N_MAX` (R6, fixed): the largest receiver count. -/
abbrev nMax : Nat := 20

/-- `NORM_DIV` (R6, fixed): the divisor of a 24-bit sample. -/
abbrev normDiv : Nat := 8388607

/-- FREE VALUE (log entry 7). What the cell `i` of buffer `b` of receiver `r` reads as while no
DECODE of session `n` has written it (U8: any value). `b` is 0 for IBUF, 1 for QBUF. -/
opaque unwrittenCell (n b r i : Nat) : Rat

/-- FREE VALUE (log entry 9). `ANT_ROUTE(band, xmit)` where no row of the parameter supplies it
(R195, D23: OPEN, no default function). -/
opaque antRoute (band : Band) (xmit : Bool) : BitVec 5

/-- FREE VALUE (log entry 15). The byte at index `i` outside a byte space. R8 defines MemRead only
inside a space and R76 says no rule reads outside. -/
opaque outsideByte (i : Nat) : Byte

end Sys2Proof.Config

namespace Sys2Proof

/-- The fields table T-CC places in the outgoing control bytes (R112), one name a row. A field
wider than a byte is named by its slices, as R105 splits it. -/
inductive CcField where
  | sampleRate | clockSrc | devPresent | modeBit | outClass | atten
  | antRx | antTx | duplex | nrxMinus1
  | txFreq31 | txFreq23 | txFreq15 | txFreq7
  | rxFreq31 | rxFreq23 | rxFreq15 | rxFreq7
  | drive | lpfMask
  | adcCache0 | adcCache1 | adcCache2 | adcCache3
  | keyerEnable | sidetoneVol | pttDelay
  | hang9 | hang1 | sidetoneFreq11 | sidetoneFreq3
  | reversed | speed | mode | weight
deriving DecidableEq, Repr

/-- One row of `LAYOUT` (R112): in the bytes of round-robin state `state`, `field` stands in
byte `byte` from bit `lo` upwards. DESIGN CHOICE (log entry 23): a field, or a slice of `CcField`,
stands in one byte and whole. -/
structure LayoutRow where
  state : Fin 8
  field : CcField
  byte : Fin 5
  lo : Nat
deriving DecidableEq, Repr

/-- `LAYOUT` (R6, R111, R112): the C0 byte of each state with MOX clear (state 2's comes from
`RXFREQ_C0`), the bit of C0 that is MOX, and the position of every field. -/
structure Layout where
  c0 : Vector Byte 8
  moxBit : Fin 8
  rows : List LayoutRow
deriving DecidableEq, Repr

/-- `STATUS_LAYOUT` (R6, R110): the bits of the incoming C0 that are PTT, dash and dot, and the
highest and the lowest bit of the status address (which no rule reads). DESIGN CHOICE (log entry 23):
the spec leaves the form of the parameter open, and here each of the three is one bit and the address
one run of adjacent bits. -/
structure StatusLayout where
  ptt : Fin 8
  dash : Fin 8
  dot : Fin 8
  saddrHi : Fin 8
  saddrLo : Fin 8
deriving DecidableEq, Repr

/-- One row of `LPF_TABLE` (R203): a TX frequency above `above` selects `mask`. DESIGN CHOICE (log
entry 23): every `LPF_TABLE` has the form of the default one. -/
structure LpfRow where
  above : Nat
  mask : BitVec 7
deriving DecidableEq, Repr

/-- `LPF_TABLE` (R203): the first row that matches, from the top, else `otherwise`. -/
structure LpfTable where
  rows : List LpfRow
  otherwise : BitVec 7
deriving DecidableEq, Repr

/-- One supplied value of `ANT_ROUTE` (R195). -/
structure AntRow where
  band : Band
  xmit : Bool
  bits : BitVec 5
deriving DecidableEq, Repr

/-- `KS_CODE` (R6, R120): the 3-bit code of each of the seven keyer states. -/
structure KsCodes where
  check : BitVec 3
  senddot : BitVec 3
  senddash : BitVec 3
  dotdelay : BitVec 3
  dashdelay : BitVec 3
  letterspace : BitVec 3
  exitloop : BitVec 3
deriving DecidableEq, Repr

/-- `EXC_CODE` (R6, R261): the number of each exception. -/
structure ExcCodes where
  syncLost : Nat
  sequenceGap : Nat
  unknownKeyerState : Nat
deriving DecidableEq, Repr

/-- How a value that lies between two neighbours of a floating-point format is rounded: the five
directions of IEEE 754. -/
inductive Rounding where
  | nearestEven | nearestAway | towardZero | towardPositive | towardNegative
deriving DecidableEq, Repr

/-- `F64` (R6, R10, D7), the rounding of a rational to the "double" of the source, as plain data: the
widths of the exponent and the fraction of a binary format of IEEE 754, and the direction of rounding
(log entry 19). `Machine.f64` is the function it names. -/
structure F64Format where
  expBits : Nat
  fracBits : Nat
  rounding : Rounding
deriving DecidableEq, Repr

/-- The width of a value of the format: sign, exponent, fraction. -/
abbrev F64Format.width (fmt : F64Format) : Nat := 1 + fmt.expBits + fmt.fracBits

/-- The parameters of R6 that are not fixed numbers: what an implementation fixes for the life of
the block. Plain data, so that a claim can be made for every value (log entry 1). -/
structure Params where
  /-- `SYNC`. -/
  sync : Vector Byte 3
  /-- `BATCH`. -/
  batch : Nat
  /-- `SYNC_REPORT_GAP_MS`. -/
  syncReportGapMs : Nat
  /-- `CTRL_DEFAULT`. -/
  ctrlDefault : Vector Byte 5
  /-- `LAYOUT`. -/
  layout : Layout
  /-- `STATUS_LAYOUT`. -/
  statusLayout : StatusLayout
  /-- `RXFREQ_C0(r)`, `none` where it is not defined. -/
  rxfreqC0 : Vector (Option Byte) 20
  /-- `NRX_WIDTH`. -/
  nrxWidth : Nat
  /-- `LPF_TABLE`. -/
  lpf : LpfTable
  /-- The supplied values of `ANT_ROUTE`; every other value is free (log entry 9). -/
  antRoute : List AntRow
  /-- `DEV_SIGNATURE`. -/
  devSignature : Vector Byte 4
  /-- `TICK_MS`: the period of KEY_TICK in milliseconds. -/
  tickMs : Rat
  /-- `TIE_DASH_FIRST`. -/
  tieDashFirst : Bool
  /-- `KS_CODE`. -/
  ksCode : KsCodes
  /-- `EXC_CODE`. -/
  excCode : ExcCodes
  /-- `F64`. -/
  f64 : F64Format
deriving DecidableEq, Repr

end Sys2Proof
end

