-- ==== Sys2Proof/Syntax.lean ====
section
/-! DEFINITION. The operations of P1CK: the 28 rows of spec/opcode_table.json as `Instr`, and what an
agent presents (`Request`, R11 and the script notation of R130). -/

namespace Sys2Proof

/-- The seven keyer states (R25, R120). -/
inductive KeyerState where
  | check | senddot | senddash | dotdelay | dashdelay | letterspace | exitloop
deriving DecidableEq, Repr

/-- The three command kinds of HWCMD (R180). -/
inductive HwKind where
  | stop | start | startWb
deriving DecidableEq, Repr

/-- The two agents that present operations (R11, R279). -/
inductive Agent where
  | processor | tick
deriving DecidableEq, Repr

/-- The name a CFG_WRITE addresses a register by (R47). A receiver is its 0-based index; an index
of 20 or more names no register, and neither does `notConfig`. -/
inductive CfgReg where
  | paddlePtt | paddleDash | paddleDot
  | nrx | micGain
  | speed | weight | mode | spacing | hang | reversed
  | modeBit | sampleRate | clockSrc | outClass | duplex | devPresent | atten | band
  | mox | ptt | dspCw | internalCw | txFreq | drive
  | sidetoneVol | pttDelay | sidetoneFreq
  | rxFreq (r : Nat)
  | rxFreqChanged (r : Nat)
  | rxAdc (r : Nat)
  /-- Any name that is none of the above: `rr`, `CC[i]`, `TP.tx_freq_changed`, a misspelling. -/
  | notConfig (name : String)
deriving DecidableEq, Repr

/-- The instructions: one constructor per row of spec/opcode_table.json. -/
inductive Instr where
  /-- DECODE.OK: a half-frame whose SYNC matches (R140). -/
  | decodeOk (f : Vector Byte 512) (now : Nat)
  /-- DECODE.SYNCLOST: a half-frame whose SYNC does not match (R141). -/
  | decodeSynclost (f : Vector Byte 512) (now : Nat)
  /-- ENCODE (R170). -/
  | encode (c : Vector Byte 5) (p : Vector Byte 504)
  /-- TX_WRITE.HDR: the write that bears the datagram header (R175). -/
  | txWriteHdr (o : Vector Byte 512)
  /-- TX_WRITE.NOHDR: the raw write (R175). -/
  | txWriteNohdr (o : Vector Byte 512)
  /-- GAP_CHECK (R178). -/
  | gapCheck (q : BitVec 32)
  /-- START (R291). -/
  | start
  /-- STOP (R292). -/
  | stop
  /-- CFG_WRITE (R47). The value is what the notation of R130 can write: an integer or a fraction. -/
  | cfgWrite (reg : CfgReg) (v : Rat)
  /-- HWCMD.STOP (R180). -/
  | hwcmdStop
  /-- HWCMD.START (R180). -/
  | hwcmdStart
  /-- HWCMD.START_WB (R180). -/
  | hwcmdStartWb
  /-- CC0 to CC7: CC_STEP in round-robin state 0 to 7 (R190, R195 to R208). -/
  | cc0 | cc1 | cc2 | cc3 | cc4 | cc5 | cc6 | cc7
  /-- KS_CHECK to KS_EXITLOOP: KEY_TICK in each keyer state (R220, R227 to R235). -/
  | ksCheck | ksSenddot | ksSenddash | ksDotdelay | ksDashdelay | ksLetterspace | ksExitloop
  /-- KS_UNKNOWN: KEY_TICK when `ks` holds no state's code (R244). -/
  | ksUnknown
deriving DecidableEq, Repr

/-- The frame operand of DECODE and TX_WRITE (R130): bytes, or the word `LAST`. -/
inductive FrameArg where
  | bytes (l : List Byte)
  | last
deriving DecidableEq, Repr

/-- The control-byte operand of ENCODE (R130): bytes, or the word `CC`. -/
inductive CtrlArg where
  | bytes (l : List Byte)
  | cc
deriving DecidableEq, Repr

/-- An operation as an agent presents it: its name and its operands as raw bytes and numbers (R11,
R130). Which row of the opcode table it is depends on what selects the row (R135). -/
inductive Request where
  | decode (f : FrameArg) (now : Nat)
  | encode (c : CtrlArg) (p : List Byte)
  | txWrite (o : FrameArg)
  | gapCheck (q : Nat)
  | hwcmd (k : HwKind)
  | ccStep
  | keyTick
  | cfgWrite (reg : CfgReg) (v : Rat)
  | start
  | stop
deriving DecidableEq, Repr

end Sys2Proof
end

