-- ==== Sys2Proof/Machine/Defaults.lean ====
section
/-! DEFINITION. The default of every parameter of R6, tables T-CC, T-ST, T-KS and the LPF table, and what
a sensible choice of parameters is. -/

namespace Sys2Proof.Machine

/-- Table T-CC (R112) with the C0 values of R113. The positions are the spec's defaults, which it
marks as general knowledge (UNVERIFIED, log entry 17). State 2's C0 is `RXFREQ_C0`, not this entry. -/
def defaultLayout : Layout where
  c0 := #v[0x00#8, 0x02#8, 0x00#8, 0x12#8, 0x1C#8, 0x1E#8, 0x20#8, 0x16#8]
  moxBit := 0
  rows := [
    ⟨0, .sampleRate, 1, 0⟩, ⟨0, .clockSrc, 1, 2⟩, ⟨0, .devPresent, 1, 5⟩,
    ⟨0, .modeBit, 2, 0⟩, ⟨0, .outClass, 2, 1⟩,
    ⟨0, .atten, 3, 0⟩, ⟨0, .antRx, 3, 5⟩,
    ⟨0, .antTx, 4, 0⟩, ⟨0, .duplex, 4, 2⟩, ⟨0, .nrxMinus1, 4, 3⟩,
    ⟨1, .txFreq31, 1, 0⟩, ⟨1, .txFreq23, 2, 0⟩, ⟨1, .txFreq15, 3, 0⟩, ⟨1, .txFreq7, 4, 0⟩,
    ⟨2, .rxFreq31, 1, 0⟩, ⟨2, .rxFreq23, 2, 0⟩, ⟨2, .rxFreq15, 3, 0⟩, ⟨2, .rxFreq7, 4, 0⟩,
    ⟨3, .drive, 1, 0⟩, ⟨3, .lpfMask, 4, 0⟩,
    ⟨4, .adcCache0, 1, 0⟩, ⟨4, .adcCache1, 2, 0⟩, ⟨4, .adcCache2, 3, 0⟩, ⟨4, .adcCache3, 4, 0⟩,
    ⟨5, .keyerEnable, 1, 0⟩, ⟨5, .sidetoneVol, 2, 0⟩, ⟨5, .pttDelay, 3, 0⟩,
    ⟨6, .hang9, 1, 0⟩, ⟨6, .hang1, 2, 0⟩, ⟨6, .sidetoneFreq11, 3, 0⟩, ⟨6, .sidetoneFreq3, 4, 0⟩,
    ⟨7, .reversed, 1, 6⟩, ⟨7, .speed, 2, 0⟩, ⟨7, .mode, 2, 6⟩, ⟨7, .weight, 3, 0⟩]

/-- Table T-ST (R110). -/
def defaultStatusLayout : StatusLayout := ⟨0, 1, 2, 7, 3⟩

/-- `RXFREQ_C0(r) = (r + 2) << 1` for r = 0..6, none for r = 7..19 (R114). -/
def defaultRxfreqC0 : Vector (Option Byte) 20 :=
  #v[some 0x04#8, some 0x06#8, some 0x08#8, some 0x0A#8, some 0x0C#8, some 0x0E#8, some 0x10#8,
     none, none, none, none, none, none, none, none, none, none, none, none, none]

/-- The default `LPF_TABLE` (R203). -/
def defaultLpf : LpfTable where
  rows := [⟨35600000, 0x10#7⟩, ⟨24000000, 0x20#7⟩, ⟨16500000, 0x40#7⟩,
           ⟨8000000, 0x01#7⟩, ⟨5000000, 0x02#7⟩, ⟨2500000, 0x04#7⟩]
  otherwise := 0x08#7

/-- Table T-KS (R120). -/
def defaultKsCodes : KsCodes := ⟨0#3, 1#3, 2#3, 3#3, 4#3, 5#3, 6#3⟩

/-- The default `EXC_CODE` (R261). -/
def defaultExcCodes : ExcCodes := ⟨1, 2, 3⟩

/-- The default `F64` (R6, D7): IEEE 754 binary64, round to nearest, ties to even. -/
def defaultF64 : F64Format := ⟨11, 52, .nearestEven⟩

/-- Every parameter at its default (R6). `ANT_ROUTE` has none: no row is supplied. -/
def defaultParams : Params where
  sync := #v[0x7F#8, 0x7F#8, 0x7F#8]
  batch := 512
  syncReportGapMs := 10
  ctrlDefault := #v[0x00#8, 0x00#8, 0x00#8, 0x00#8, 0x00#8]
  layout := defaultLayout
  statusLayout := defaultStatusLayout
  rxfreqC0 := defaultRxfreqC0
  nrxWidth := 3
  lpf := defaultLpf
  antRoute := []
  devSignature := #v[0xEF#8, 0xFE#8, 0x01#8, 0x02#8]
  tickMs := 1
  tieDashFirst := true
  ksCode := defaultKsCodes
  excCode := defaultExcCodes
  f64 := defaultF64

/-- The seven codes in the order of R120. -/
def ksCodeList (k : KsCodes) : List (BitVec 3) :=
  [k.check, k.senddot, k.senddash, k.dotdelay, k.dashdelay, k.letterspace, k.exitloop]

/-- The code of a keyer state under `KS_CODE` (R120). -/
def ksCodeOf (k : KsCodes) : KeyerState → BitVec 3
  | .check => k.check
  | .senddot => k.senddot
  | .senddash => k.senddash
  | .dotdelay => k.dotdelay
  | .dashdelay => k.dashdelay
  | .letterspace => k.letterspace
  | .exitloop => k.exitloop

/-- The keyer state a 3-bit code names, `none` for an unrecognised code (R25, R120, R244). -/
def keyerStateOf (k : KsCodes) (code : BitVec 3) : Option KeyerState :=
  if code = k.check then some .check
  else if code = k.senddot then some .senddot
  else if code = k.senddash then some .senddash
  else if code = k.dotdelay then some .dotdelay
  else if code = k.dashdelay then some .dashdelay
  else if code = k.letterspace then some .letterspace
  else if code = k.exitloop then some .exitloop
  else none

/-- Parameters that describe a block: a batch holds a sample (`idx` ranges over 0 .. BATCH - 1,
R26), and no two keyer states share a code (R120). -/
def paramsWf (p : Params) : Bool :=
  decide (0 < p.batch) && decide (ksCodeList p.ksCode).Nodup

end Sys2Proof.Machine
end

