-- ==== Sys2Proof/Machine/Frames.lean ====
section
/-! DEFINITION. Byte strings of a fixed length, and the SYNC comparison that selects a row of DECODE. -/

namespace Sys2Proof.Machine

/-- The list `l` as `n` bytes, where it has exactly that many. -/
def ofLength (n : Nat) (l : List Byte) : Option (Vector Byte n) :=
  if h : l.length = n then some ⟨l.toArray, by simpa using h⟩ else none

/-- The first `n` bytes of `l`, with zero bytes after its end: how a byte string shorter than its
format is written out (`frame(N; st; periods)` of R131 ends with zero bytes). -/
def padTo (n : Nat) (l : List Byte) : Vector Byte n :=
  ⟨((l ++ List.replicate n 0#8).take n).toArray, by simp⟩

/-- Bytes 0, 1, 2 of `f` are the three bytes of `SYNC`, compared in index order (R77, R141). -/
def syncMatches (p : Params) (f : Vector Byte 512) : Bool :=
  f[0] == p.sync[0] && f[1] == p.sync[1] && f[2] == p.sync[2]

end Sys2Proof.Machine
end

