-- ==== Sys2Proof/WellFormed.lean ====
section
/-! DEFINITION. Which terms of `Instr` are instructions. The lengths and widths of operands are in
their types; what is left is the selector of the two rows of DECODE (R135). -/

namespace Sys2Proof

/-- DECODE.OK carries a frame whose SYNC matches, DECODE.SYNCLOST one whose SYNC does not (R135,
R141). Every other row's operands are all legal: a CFG_WRITE of an illegal value or of a name that
is no register is an operation, and is refused when it is performed (R47). -/
def wellFormed (p : Params) : Instr → Bool
  | .decodeOk f _ => Machine.syncMatches p f
  | .decodeSynclost f _ => !Machine.syncMatches p f
  | .encode _ _ => true
  | .txWriteHdr _ => true
  | .txWriteNohdr _ => true
  | .gapCheck _ => true
  | .start => true
  | .stop => true
  | .cfgWrite _ _ => true
  | .hwcmdStop => true
  | .hwcmdStart => true
  | .hwcmdStartWb => true
  | .cc0 => true
  | .cc1 => true
  | .cc2 => true
  | .cc3 => true
  | .cc4 => true
  | .cc5 => true
  | .cc6 => true
  | .cc7 => true
  | .ksCheck => true
  | .ksSenddot => true
  | .ksSenddash => true
  | .ksDotdelay => true
  | .ksDashdelay => true
  | .ksLetterspace => true
  | .ksExitloop => true
  | .ksUnknown => true

end Sys2Proof
end

