-- ==== Sys2Proof/Decode.lean ====
section
/-! DEFINITION. From a presented operation to the row of the opcode table it is (R135), total on any
operand bytes and rejecting by name; then the encoder, its inverse. -/

namespace Sys2Proof

open Machine

/-- Why a presentation is no operation of P1CK. -/
inductive Reject where
  /-- A half-frame operand that is not 512 bytes (R6 `FRAME_LEN`, R100). -/
  | badFrameLength (n : Nat)
  /-- A payload that is not 504 bytes: such an ENCODE cannot be presented (R73, D41). -/
  | badPayloadLength (n : Nat)
  /-- Control bytes that are not five (R170). -/
  | badControlLength (n : Nat)
  /-- A sequence number wider than 32 bits (R178). -/
  | badSequence (q : Nat)
  /-- `LAST` with no ENCODE before it (R130). -/
  | noPrecedingEncode
deriving DecidableEq, Repr

/-- What the selection of a row reads of the machine (R135), and what the words `CC` and `LAST` of
the notation name (R130). -/
structure Context where
  par : Params
  rr : BitVec 3
  ks : BitVec 3
  hdrPhase : Bool
  cc : Vector Byte 5
  last : Option (Vector Byte 512)
deriving DecidableEq, Repr

/-- The 512 bytes a frame operand stands for (R130). -/
def frameArg (last : Option (Vector Byte 512)) : FrameArg → Except Reject (Vector Byte 512)
  | .bytes l =>
    match ofLength 512 l with
    | some f => .ok f
    | none => .error (.badFrameLength l.length)
  | .last =>
    match last with
    | some f => .ok f
    | none => .error .noPrecedingEncode

/-- The five bytes a control-byte operand stands for (R130). -/
def ctrlArg (cc : Vector Byte 5) : CtrlArg → Except Reject (Vector Byte 5)
  | .bytes l =>
    match ofLength 5 l with
    | some c => .ok c
    | none => .error (.badControlLength l.length)
  | .cc => .ok cc

/-- The row of CC_STEP that `rr` selects (R121, R190): all eight codes are states. -/
def ccRow (rr : BitVec 3) : Instr :=
  if rr = 0#3 then .cc0
  else if rr = 1#3 then .cc1
  else if rr = 2#3 then .cc2
  else if rr = 3#3 then .cc3
  else if rr = 4#3 then .cc4
  else if rr = 5#3 then .cc5
  else if rr = 6#3 then .cc6
  else .cc7

/-- The row of KEY_TICK that a keyer state selects, KS_UNKNOWN where `ks` names none (R2, R220). -/
def ksRow : Option KeyerState → Instr
  | some .check => .ksCheck
  | some .senddot => .ksSenddot
  | some .senddash => .ksSenddash
  | some .dotdelay => .ksDotdelay
  | some .dashdelay => .ksDashdelay
  | some .letterspace => .ksLetterspace
  | some .exitloop => .ksExitloop
  | none => .ksUnknown

/-- The row of DECODE that bytes 0..2 of the frame select (R135, R141). -/
def decodeRow (p : Params) (f : Vector Byte 512) (now : Nat) : Instr :=
  if syncMatches p f then .decodeOk f now else .decodeSynclost f now

/-- The row of HWCMD that the command kind selects (R180). -/
def hwcmdRow : HwKind → Instr
  | .stop => .hwcmdStop
  | .start => .hwcmdStart
  | .startWb => .hwcmdStartWb

/-- The decoder: which instruction a presented operation is (R135). -/
def decode (c : Context) : Request → Except Reject Instr
  | .decode f now =>
    match frameArg c.last f with
    | .ok f => .ok (decodeRow c.par f now)
    | .error e => .error e
  | .encode b p =>
    match ctrlArg c.cc b with
    | .ok b =>
      match ofLength 504 p with
      | some p => .ok (.encode b p)
      | none => .error (.badPayloadLength p.length)
    | .error e => .error e
  | .txWrite o =>
    match frameArg c.last o with
    | .ok o => .ok (if c.hdrPhase then .txWriteNohdr o else .txWriteHdr o)
    | .error e => .error e
  | .gapCheck q => if q < 2 ^ 32 then .ok (.gapCheck (BitVec.ofNat 32 q)) else .error (.badSequence q)
  | .hwcmd k => .ok (hwcmdRow k)
  | .ccStep => .ok (ccRow c.rr)
  | .keyTick => .ok (ksRow (keyerStateOf c.par.ksCode c.ks))
  | .cfgWrite reg v => .ok (.cfgWrite reg v)
  | .start => .ok .start
  | .stop => .ok .stop

/-- The encoder: the operation and operand bytes an instruction is presented as (R130, R135). -/
def encode : Instr → Request
  | .decodeOk f now => .decode (.bytes f.toList) now
  | .decodeSynclost f now => .decode (.bytes f.toList) now
  | .encode c p => .encode (.bytes c.toList) p.toList
  | .txWriteHdr o => .txWrite (.bytes o.toList)
  | .txWriteNohdr o => .txWrite (.bytes o.toList)
  | .gapCheck q => .gapCheck q.toNat
  | .start => .start
  | .stop => .stop
  | .cfgWrite reg v => .cfgWrite reg v
  | .hwcmdStop => .hwcmd .stop
  | .hwcmdStart => .hwcmd .start
  | .hwcmdStartWb => .hwcmd .startWb
  | .cc0 => .ccStep
  | .cc1 => .ccStep
  | .cc2 => .ccStep
  | .cc3 => .ccStep
  | .cc4 => .ccStep
  | .cc5 => .ccStep
  | .cc6 => .ccStep
  | .cc7 => .ccStep
  | .ksCheck => .keyTick
  | .ksSenddot => .keyTick
  | .ksSenddash => .keyTick
  | .ksDotdelay => .keyTick
  | .ksDashdelay => .keyTick
  | .ksLetterspace => .keyTick
  | .ksExitloop => .keyTick
  | .ksUnknown => .keyTick

/-- The selecting register of the opcode table holds this row's value: `hdr_phase` for TX_WRITE,
`rr` for CC_STEP, `ks` for KEY_TICK (R135). The rows of DECODE are selected by the frame itself
(`wellFormed`), the others by the operation's name or kind alone. -/
def selects (c : Context) : Instr → Bool
  | .decodeOk _ _ => true
  | .decodeSynclost _ _ => true
  | .encode _ _ => true
  | .txWriteHdr _ => !c.hdrPhase
  | .txWriteNohdr _ => c.hdrPhase
  | .gapCheck _ => true
  | .start => true
  | .stop => true
  | .cfgWrite _ _ => true
  | .hwcmdStop => true
  | .hwcmdStart => true
  | .hwcmdStartWb => true
  | .cc0 => c.rr == 0#3
  | .cc1 => c.rr == 1#3
  | .cc2 => c.rr == 2#3
  | .cc3 => c.rr == 3#3
  | .cc4 => c.rr == 4#3
  | .cc5 => c.rr == 5#3
  | .cc6 => c.rr == 6#3
  | .cc7 => c.rr == 7#3
  | .ksCheck => c.ks == c.par.ksCode.check
  | .ksSenddot => c.ks == c.par.ksCode.senddot
  | .ksSenddash => c.ks == c.par.ksCode.senddash
  | .ksDotdelay => c.ks == c.par.ksCode.dotdelay
  | .ksDashdelay => c.ks == c.par.ksCode.dashdelay
  | .ksLetterspace => c.ks == c.par.ksCode.letterspace
  | .ksExitloop => c.ks == c.par.ksCode.exitloop
  | .ksUnknown => !(ksCodeList c.par.ksCode).contains c.ks

/-- Which agent presents an operation (R11, R279). -/
def Request.agent : Request → Agent
  | .keyTick => .tick
  | .decode _ _ => .processor
  | .encode _ _ => .processor
  | .txWrite _ => .processor
  | .gapCheck _ => .processor
  | .hwcmd _ => .processor
  | .ccStep => .processor
  | .cfgWrite _ _ => .processor
  | .start => .processor
  | .stop => .processor

/-- The operands are written out: neither `CC` nor `LAST` stands for one (R130). -/
def Request.explicit : Request → Bool
  | .decode f _ => decide (f ≠ .last)
  | .encode c _ => decide (c ≠ .cc)
  | .txWrite o => decide (o ≠ .last)
  | .gapCheck _ => true
  | .hwcmd _ => true
  | .ccStep => true
  | .keyTick => true
  | .cfgWrite _ _ => true
  | .start => true
  | .stop => true

/-! ### Words of the opcode table

The table numbers the bits that SELECT a row, not an instruction's own bits: bytes 0..2 of a
half-frame (24 bits) for DECODE, the register `hdr_phase`, `rr` or `ks`, or the command byte. A
word of one byte therefore names a row of several operations at once. DESIGN CHOICE (log entry 4):
a word of at least 24 bits is a half-frame presented to DECODE; a shorter one is the value of `rr`
under which CC_STEP is presented. -/

/-- The bytes of a word of `nbits` bits, the first byte in bits 7..0. -/
def wordBytes (nbits w : Nat) : List Byte :=
  (List.range ((nbits + 7) / 8)).map fun i => BitVec.ofNat 8 (w / 2 ^ (8 * i))

/-- What a word presents, and the value of `rr` it presents it under (log entry 4). -/
def tableWordRequest (nbits w : Nat) : Option (Request × BitVec 3) :=
  if 24 ≤ nbits then some (.decode (.bytes (padTo 512 (wordBytes nbits w)).toList) 0, 0#3)
  else if w < 8 then some (.ccStep, BitVec.ofNat 3 w)
  else none

/-- The context after reset with `rr` at the given value. -/
def tableWordContext (rr : BitVec 3) : Context where
  par := defaultParams
  rr := rr
  ks := defaultKsCodes.check
  hdrPhase := false
  cc := defaultParams.ctrlDefault
  last := none

/-- The instruction the decoder reads from a word of the opcode table (log entry 4). -/
def decodeTableWord (nbits w : Nat) : Option Instr :=
  match tableWordRequest nbits w with
  | some (r, rr) =>
    match decode (tableWordContext rr) r with
    | .ok i => some i
    | .error _ => none
  | none => none

end Sys2Proof
end

