-- ==== Sys2Proof/Machine/State.lean ====
section
/-! DEFINITION. Everything the spec gives the machine, as plain data, grouped by the unit that owns it (R2),
and the machine right after reset (R60, R290). -/

namespace Sys2Proof.Machine

/-- The cells of one sample buffer that hold a value: (index, value) pairs with strictly rising
indices (R50, R51, R75). An index that is not listed holds no value. -/
abbrev SampleBuf := List (Nat × Rat)

/-- `PADDLE` (R23). -/
structure Paddle where
  ptt : Bool
  dash : Bool
  dot : Bool
deriving DecidableEq, Repr

/-- `CFG.nrx` (R40) and `CFG.mic_gain` (R41). -/
structure Cfg where
  nrx : BitVec 5
  micGain : Rat
deriving DecidableEq, Repr

/-- `KCFG`, the keyer configuration (R42). -/
structure Kcfg where
  speed : BitVec 6
  weight : BitVec 7
  mode : BitVec 2
  spacing : Bool
  hang : BitVec 10
  reversed : Bool
deriving DecidableEq, Repr

/-- `TP`, the transmit parameters (R43, R44, R45), with `TP.tx_freq_changed` (R34). -/
structure Tp where
  modeBit : Bool
  sampleRate : BitVec 2
  clockSrc : BitVec 3
  outClass : BitVec 7
  duplex : Bool
  devPresent : BitVec 2
  atten : BitVec 2
  band : Band
  mox : Bool
  ptt : Bool
  dspCw : Bool
  internalCw : Bool
  txFreq : BitVec 32
  drive : BitVec 8
  sidetoneVol : BitVec 7
  pttDelay : BitVec 8
  sidetoneFreq : BitVec 12
  txFreqChanged : Bool
deriving DecidableEq, Repr

/-- `RX[r]` of one receiver (R46, R34). -/
structure Rx where
  freq : BitVec 32
  freqChanged : Bool
  adc : BitVec 2
deriving DecidableEq, Repr

/-- The registers and buffers of DEC: `STATUS` (R22), `idx` (R26), the SyncLost rate limiter (R36),
`IBUF`, `QBUF` (R50) and `MICBUF` (R51). -/
structure DecRegs where
  status : Vector Byte 5
  idx : Nat
  syncRepValid : Bool
  syncRepTime : Nat
  ibuf : Vector SampleBuf 20
  qbuf : Vector SampleBuf 20
  micbuf : SampleBuf
deriving DecidableEq, Repr

/-- The registers of CCG: `CC` (R21), `rr` (R24), `force_all` and `adc_cache` (R58). -/
structure CcgRegs where
  cc : Vector Byte 5
  rr : BitVec 3
  forceAll : BitVec 5
  adcCache : Vector Byte 4
deriving DecidableEq, Repr

/-- The registers of SEQ: `hdr_phase` (R27), `seq`, `last_seen`, `last_seen_valid` (R58). -/
structure SeqRegs where
  hdrPhase : Bool
  seq : BitVec 32
  lastSeen : BitVec 32
  lastSeenValid : Bool
deriving DecidableEq, Repr

/-- The registers of KEY: `ks` (R25), the latches (R30, R31, R32), `key` and `tx_req` (R33), `cnt` and
`cwvox` (R58). -/
structure KeyRegs where
  ks : BitVec 3
  cnt : BitVec 16
  cwvox : BitVec 16
  key : Bool
  txReq : Bool
  dotMem : Bool
  dashMem : Bool
  dotHeld : Bool
  dashHeld : Bool
  dotPrev : Bool
  dashPrev : Bool
deriving DecidableEq, Repr

/-- The reason a refusal carries (R266). -/
inductive RefuseReason where
  | notRunning
  | illegalValue
  | cfgRange
deriving DecidableEq, Repr

/-- The events of the output trace (R12). -/
inductive Event where
  | syncLost (now : Nat)
  | status (b : Vector Byte 5)
  | mic (q : Rat)
  | readyForDsp (r : Nat) (i q : List Rat)
  | keyDown
  | keyUp
  | moxOn
  | moxOff
  | sequenceGap (expected observed : BitVec 32)
  | unknownKeyerState (code : BitVec 3)
  | refused (why : RefuseReason)
deriving DecidableEq, Repr

/-- What an operation returns (R11): ENCODE a half-frame, TX_WRITE the bytes of space `D` (R74),
HWCMD a byte. -/
inductive Result where
  | frame (o : Vector Byte 512)
  | datagram (d : List Byte)
  | command (b : Byte)
deriving DecidableEq, Repr

/-- The state of the machine. The registers and buffers of R21 to R58; the parameters (`par`, log
entry 1), which no operation changes; the event trace (R12) and the returned bytes (log entry 3),
which no operation reads but for the word `LAST`; the presented operations (`script`, log entry 2);
and the model's counter `session` (log entry 7). -/
structure State where
  par : Params
  run : Bool
  paddle : Paddle
  cfg : Cfg
  kcfg : Kcfg
  tp : Tp
  rx : Vector Rx 20
  dec : DecRegs
  ccg : CcgRegs
  sq : SeqRegs
  kr : KeyRegs
  session : Nat
  trace : List Event
  results : List Result
  script : List Request
deriving DecidableEq, Repr

/-- Why the machine stops with a fault: never. P1CK's exceptions and refusals are events, after each
of which the block goes on (R260, R266), and no operation halts it (R11). -/
inductive Fault where
deriving DecidableEq, Repr

/-- Why a step has no meaning. -/
inductive Refusal where
  /-- Raised by an arm of `exec` for an instruction that has no meaning yet; no arm does. Safe. -/
  | notModelled (mnemonic : String)
  /-- Raised by `step` for a presentation that is no operation of P1CK: an operand of the wrong
  length or width, or `LAST` with no ENCODE before it (R73, D41, log entry 5). Safe: the model
  stops where the spec says that the operation cannot be presented. -/
  | undecodable (why : Reject)
deriving DecidableEq, Repr

/-- A receiver's registers at reset (R60). -/
def Rx.reset : Rx := ⟨0#32, false, 0#2⟩

/-- The registers of DEC at reset: no cell of a buffer holds a value (R50, R60). `sync_rep_time` is
unspecified in the spec; 0 is a DESIGN CHOICE (log entry 6). -/
def DecRegs.reset : DecRegs where
  status := #v[0x00#8, 0x00#8, 0x00#8, 0x00#8, 0x00#8]
  idx := 0
  syncRepValid := false
  syncRepTime := 0
  ibuf := Vector.replicate 20 []
  qbuf := Vector.replicate 20 []
  micbuf := []

/-- The registers of CCG at reset: `CC` is `CTRL_DEFAULT` (R21, R60). -/
def CcgRegs.reset (p : Params) : CcgRegs where
  cc := p.ctrlDefault
  rr := 0#3
  forceAll := 0#5
  adcCache := #v[0x00#8, 0x00#8, 0x00#8, 0x00#8]

/-- The registers of SEQ at reset. `last_seen` is unspecified in the spec; 0 is a DESIGN CHOICE (log
entry 6). -/
def SeqRegs.reset : SeqRegs := ⟨false, 0#32, 0#32, false⟩

/-- The registers of KEY at reset: `ks` is CHECK (R60). -/
def KeyRegs.reset (p : Params) : KeyRegs where
  ks := p.ksCode.check
  cnt := 0#16
  cwvox := 0#16
  key := false
  txReq := false
  dotMem := false
  dashMem := false
  dotHeld := false
  dashHeld := false
  dotPrev := false
  dashPrev := false

/-- `TP` at reset (R60). `TP.band` is unspecified in the spec; 0 is a DESIGN CHOICE (log entry 6). -/
def Tp.reset : Tp where
  modeBit := false
  sampleRate := 0#2
  clockSrc := 0#3
  outClass := 0#7
  duplex := false
  devPresent := 0#2
  atten := 0#2
  band := 0
  mox := false
  ptt := false
  dspCw := false
  internalCw := false
  txFreq := 0#32
  drive := 0#8
  sidetoneVol := 0#7
  pttDelay := 0#8
  sidetoneFreq := 0#12
  txFreqChanged := false

/-- Power-on reset under parameters `p` (R60, R290): stopped, every register at the value of the
table, the trace empty, nothing presented. -/
def State.resetWith (p : Params) : State where
  par := p
  run := false
  paddle := ⟨false, false, false⟩
  cfg := ⟨1#5, 1⟩
  kcfg := ⟨20#6, 50#7, 2#2, false, 0#10, false⟩
  tp := Tp.reset
  rx := Vector.replicate 20 Rx.reset
  dec := DecRegs.reset
  ccg := CcgRegs.reset p
  sq := SeqRegs.reset
  kr := KeyRegs.reset p
  session := 0
  trace := []
  results := []
  script := []

/-- The machine right after power-on reset, with every parameter at its default (R6, R60, R290). -/
def State.reset : State := State.resetWith defaultParams

end Sys2Proof.Machine
end

