-- ==== Sys2Proof/Machine/Operands.lean ====
section
/-! DEFINITION. Every operand form: reading a byte space, the values of samples, the values a CFG_WRITE
may carry, and the fields that go into the outgoing control bytes. -/

namespace Sys2Proof.Machine

/-! ### Byte spaces and sample values -/

/-- Byte `i` of a byte space of `n` bytes; outside the space a free value (R8, R76, log entry 15). -/
def spaceByte {n : Nat} (f : Vector Byte n) (i : Nat) : Byte :=
  if h : i < n then f[i] else Config.outsideByte i

/-- `MemRead(F, a, n)`: `n` bytes from index `a`, the first most significant (R8, R77). -/
def memRead {len : Nat} (f : Vector Byte len) (a : Nat) : Nat → Nat
  | 0 => 0
  | n + 1 => memRead f a n * 256 + (spaceByte f (a + n)).toNat

/-- `sext_N(v)`: the `N`-bit unsigned `v` read as two's complement (R8). -/
def sext (bits v : Nat) : Int :=
  if v < 2 ^ (bits - 1) then (v : Int) else (v : Int) - 2 ^ bits

/-- The value of the 24-bit sample at index `a`: `s / 8388607`, exact and not clamped (R105 (a),
R148). -/
def sampleValue (f : Vector Byte 512) (a : Nat) : Rat :=
  (sext 24 (memRead f a 3) : Rat) / (Config.normDiv : Rat)

/-- The value of the 16-bit mic/key sample at index `a` under gain `g` (R105 (b), R149). -/
def micValue (f : Vector Byte 512) (g : Rat) (a : Nat) : Rat :=
  (sext 16 (memRead f a 2) : Rat) * g

/-- The size of a sample period with `n` receivers, in bytes (R71, R145). -/
def periodBytes (n : Nat) : Nat := 6 * n + 2

/-- `P(N)`, the number of sample periods of a half-frame (R71, R145). -/
def periodCount (n : Nat) : Nat := Config.payloadLen / periodBytes n

/-- The first byte of sample period `p` (R71, R146). -/
def periodBase (n p : Nat) : Nat := Config.hdrLen + p * periodBytes n

/-- A 32-bit value as four bytes, most significant first (R77, R105 (c), (d)). -/
def bytesBE (v : BitVec 32) : List Byte :=
  [v.extractLsb' 24 8, v.extractLsb' 16 8, v.extractLsb' 8 8, v.extractLsb' 0 8]

/-! ### Values of CFG_WRITE -/

/-- The value as an unsigned integer of `w` bits, where it is one (R47, R266: a value wider than the
register is illegal, and so is one that is no unsigned integer). -/
def asBits (w : Nat) (v : Rat) : Option (BitVec w) :=
  if v.den = 1 ∧ 0 ≤ v.num ∧ v.num < 2 ^ w then some (BitVec.ofNat w v.num.toNat) else none

/-- The value as a single bit. -/
def asBit (v : Rat) : Option Bool :=
  (asBits 1 v).map fun b => b == 1#1

/-- The value as a tag of type `Band` (log entry 10). -/
def asBand (v : Rat) : Option Band :=
  if v.den = 1 ∧ 0 ≤ v.num then some v.num.toNat else none

/-- The value as an unsigned integer of `w` bits from `lo` to `hi` (R40, R42). -/
def asRange (w lo hi : Nat) (v : Rat) : Option (BitVec w) :=
  match asBits w v with
  | some b => if lo ≤ b.toNat ∧ b.toNat ≤ hi then some b else none
  | none => none

/-! ### Registers of one receiver -/

/-- `RX[r]` (R46). There are 20; the model gives an index beyond them a receiver at its reset value,
which no rule reads while `CFG.nrx` is legal (log entry 16). -/
def rxAt (s : State) (r : Nat) : Rx :=
  if h : r < 20 then s.rx[r] else Rx.reset

/-- `RXFREQ_C0(r)` (R114). -/
def rxfreqC0At (p : Params) (r : Nat) : Option Byte :=
  if h : r < 20 then p.rxfreqC0[r] else none

/-! ### Predicates and functions of the control-byte generator -/

/-- `xmit = TP.mox ∨ TP.ptt` (R44, R192). -/
def xmit (s : State) : Bool := s.tp.mox || s.tp.ptt

/-- `cwmode = TP.dsp_cw` (R192). -/
def cwmode (s : State) : Bool := s.tp.dspCw

/-- `ANT_ROUTE(TP.band, xmit)` (R195): the supplied value, or a free one (log entry 9). -/
def antBits (s : State) : BitVec 5 :=
  match s.par.antRoute.find? fun r => r.band == s.tp.band && r.xmit == xmit s with
  | some r => r.bits
  | none => Config.antRoute s.tp.band (xmit s)

/-- The first mask of the table whose threshold the frequency is above, else the last (R203). -/
def lpfMask (t : LpfTable) (f : BitVec 32) : BitVec 7 :=
  match t.rows.find? fun r => decide (r.above < f.toNat) with
  | some r => r.mask
  | none => t.otherwise

/-- Routing byte `k`: `RX[4k + j].adc` in bits `[2j+1 : 2j]`, for the receivers below
`min(CFG.nrx, 16)` (R105 (g), R115). -/
def routeByte (s : State) (k : Nat) : Byte :=
  let two (j : Nat) : Byte :=
    if 4 * k + j < min s.cfg.nrx.toNat 16 then (rxAt s (4 * k + j)).adc.setWidth 8 <<< (2 * j) else 0#8
  two 0 ||| two 1 ||| two 2 ||| two 3

/-- `route[0..3]` (R115, R204). -/
def route (s : State) : Vector Byte 4 :=
  #v[routeByte s 0, routeByte s 1, routeByte s 2, routeByte s 3]

/-- A single bit as a byte. -/
def bitByte (b : Bool) : Byte := if b then 1#8 else 0#8

/-- The value of a field of table T-CC (R112), in the low bits of a byte; `f` is the frequency of the
receiver that state 2 selected. The slices are those of R105 and R112. -/
def ccField (s : State) (f : BitVec 32) : CcField → Byte
  | .sampleRate => s.tp.sampleRate.setWidth 8
  | .clockSrc => s.tp.clockSrc.setWidth 8
  | .devPresent => s.tp.devPresent.setWidth 8
  | .modeBit => bitByte s.tp.modeBit
  | .outClass => s.tp.outClass.setWidth 8
  | .atten => s.tp.atten.setWidth 8
  | .antRx => ((antBits s).extractLsb' 2 3).setWidth 8
  | .antTx => ((antBits s).extractLsb' 0 2).setWidth 8
  | .duplex => bitByte s.tp.duplex
  | .nrxMinus1 => (s.cfg.nrx - 1#5).setWidth 8
  | .txFreq31 => s.tp.txFreq.extractLsb' 24 8
  | .txFreq23 => s.tp.txFreq.extractLsb' 16 8
  | .txFreq15 => s.tp.txFreq.extractLsb' 8 8
  | .txFreq7 => s.tp.txFreq.extractLsb' 0 8
  | .rxFreq31 => f.extractLsb' 24 8
  | .rxFreq23 => f.extractLsb' 16 8
  | .rxFreq15 => f.extractLsb' 8 8
  | .rxFreq7 => f.extractLsb' 0 8
  | .drive => s.tp.drive
  | .lpfMask => if xmit s then (lpfMask s.par.lpf s.tp.txFreq).setWidth 8 else 0#8
  | .adcCache0 => s.ccg.adcCache[0]
  | .adcCache1 => s.ccg.adcCache[1]
  | .adcCache2 => s.ccg.adcCache[2]
  | .adcCache3 => s.ccg.adcCache[3]
  | .keyerEnable => bitByte (cwmode s && s.tp.internalCw && !xmit s)
  | .sidetoneVol => s.tp.sidetoneVol.setWidth 8
  | .pttDelay => s.tp.pttDelay
  | .hang9 => s.kcfg.hang.extractLsb' 2 8
  | .hang1 => (s.kcfg.hang.extractLsb' 0 2).setWidth 8
  | .sidetoneFreq11 => s.tp.sidetoneFreq.extractLsb' 4 8
  | .sidetoneFreq3 => (s.tp.sidetoneFreq.extractLsb' 0 4).setWidth 8
  | .reversed => bitByte s.kcfg.reversed
  | .speed => s.kcfg.speed.setWidth 8
  | .mode => s.kcfg.mode.setWidth 8
  | .weight => s.kcfg.weight.setWidth 8

/-- Byte `b` of the control bytes of state `k`: the bitwise OR of the fields `LAYOUT` puts there,
shifted to their positions, every other bit 0 (R111, R196). -/
def layoutByte (s : State) (k : Fin 8) (f : BitVec 32) (b : Fin 5) : Byte :=
  (s.par.layout.rows.filter fun r => r.state == k && r.byte == b).foldl
    (fun acc r => acc ||| ccField s f r.field <<< r.lo) 0#8

/-- The five control bytes of state `k`, MOX clear: C0 is `c0` and the rest is what `LAYOUT` puts
there (R111, R112). Each state writes its five bytes whole (R190, `90_conflicts.md` C1, log entry
12). -/
def layoutBytes (s : State) (k : Fin 8) (c0 : Byte) (f : BitVec 32) : Vector Byte 5 :=
  #v[c0 ||| layoutByte s k f 0, layoutByte s k f 1, layoutByte s k f 2, layoutByte s k f 3,
     layoutByte s k f 4]

end Sys2Proof.Machine
end

