-- ==== Sys2Proof/Machine/Flags.lean ====
section
/-! DEFINITION. Every flag computation: the MOX bit, the paddle bits of a status byte, the element
lengths, the paddle edges and the memory latches they set. -/

namespace Sys2Proof.Machine

/-- The MOX bit: CW mode forces it off, otherwise it follows mox-or-ptt (R210). -/
def moxBit (s : State) : Bool := if cwmode s then false else xmit s

/-- Byte `c` with bit `i` made `b`. -/
def setBit (c : Byte) (i : Nat) (b : Bool) : Byte :=
  if b then c ||| 1#8 <<< i else c &&& ~~~(1#8 <<< i)

/-- The MOX adjustment of the five bytes: bit `moxBit` of C0 is overwritten, whatever the state put
there (R210). -/
def withMox (s : State) (b : Vector Byte 5) : Vector Byte 5 :=
  b.set 0 (setBit b[0] s.par.layout.moxBit.val (moxBit s))

/-- The paddle bits of an incoming C0 (R110, R144). -/
def paddleOf (l : StatusLayout) (c0 : Byte) : Paddle :=
  ⟨c0.getLsbD l.ptt.val, c0.getLsbD l.dash.val, c0.getLsbD l.dot.val⟩

/-- The status address `saddr` of the last accepted frame (R110), for a host to read; no rule does. It
is the slice of C0 that `STATUS_LAYOUT` names, empty where `saddrHi` is below `saddrLo` (log entry 23). -/
def statusAddr (s : State) : Byte :=
  let l := s.par.statusLayout
  (s.dec.status[0].extractLsb' l.saddrLo.val (l.saddrHi.val + 1 - l.saddrLo.val)).setWidth 8

/-- `dot_len = 1200 div KCFG.speed` (R221). -/
def dotLen (k : Kcfg) : Nat := 1200 / k.speed.toNat

/-- `dash_len = (dot_len × 3 × KCFG.weight) div 50` (R221). -/
def dashLen (k : Kcfg) : Nat := dotLen k * 3 * k.weight.toNat / 50

/-- The states in which a rising dash edge sets `dash_mem` (R223). -/
def dashWindow : Option KeyerState → Bool
  | some .senddot => true
  | some .dotdelay => true
  | some .letterspace => true
  | _ => false

/-- The states in which a rising dot edge sets `dot_mem` (R223). -/
def dotWindow : Option KeyerState → Bool
  | some .senddash => true
  | some .dashdelay => true
  | some .letterspace => true
  | _ => false

/-- The memory latches at the start of a tick run in keyer state `st`, with the paddles sampled as
`d` and `h`: a rising edge in its window sets the latch (R220, R223). -/
def latchEdges (st : Option KeyerState) (d h : Bool) (k : KeyRegs) : KeyRegs :=
  { k with
    dashMem := k.dashMem || (dashWindow st && (h && !k.dashPrev))
    dotMem := k.dotMem || (dotWindow st && (d && !k.dotPrev)) }

end Sys2Proof.Machine
end

