-- ==== Sys2Proof/Machine/Ops.lean ====
section
/-! DEFINITION. The operations every meaning is built from: writing a unit's registers, the sample
buffers, the event trace, refusing, raising an exception, and returning to the reset values. -/

namespace Sys2Proof.Machine

/-! ### One unit's registers -/

def State.withPaddle (s : State) (x : Paddle) : State := { s with paddle := x }
def State.withCfg (s : State) (x : Cfg) : State := { s with cfg := x }
def State.withKcfg (s : State) (x : Kcfg) : State := { s with kcfg := x }
def State.withTp (s : State) (x : Tp) : State := { s with tp := x }
def State.withRx (s : State) (x : Vector Rx 20) : State := { s with rx := x }
def State.withDec (s : State) (x : DecRegs) : State := { s with dec := x }
def State.withCcg (s : State) (x : CcgRegs) : State := { s with ccg := x }
def State.withSq (s : State) (x : SeqRegs) : State := { s with sq := x }
def State.withKr (s : State) (x : KeyRegs) : State := { s with kr := x }
def State.withScript (s : State) (x : List Request) : State := { s with script := x }

/-- `emit E`: the event goes to the end of the output trace (R8, R12). -/
def State.emit (s : State) (e : Event) : State := { s with trace := s.trace ++ [e] }

/-- The operation returns `r` (R11, log entry 3). -/
def State.answer (s : State) (r : Result) : State := { s with results := s.results ++ [r] }

/-! ### Sample buffers -/

/-- The value of cell `i`, `none` while it holds no value (R50). -/
def SampleBuf.read : SampleBuf → Nat → Option Rat
  | [], _ => none
  | (j, q) :: b, i => if i = j then some q else SampleBuf.read b i

/-- `BUF[i] <- q` (R8), keeping the indices strictly rising. -/
def SampleBuf.write : SampleBuf → Nat → Rat → SampleBuf
  | [], i, q => [(i, q)]
  | (j, x) :: b, i, q =>
    if i < j then (i, q) :: (j, x) :: b
    else if i = j then (i, q) :: b
    else (j, x) :: SampleBuf.write b i q

/-- Every index listed is above `lo`, and they rise strictly. -/
def SampleBuf.risingFrom (lo : Nat) : SampleBuf → Bool
  | [] => true
  | (j, _) :: b => decide (lo < j) && SampleBuf.risingFrom j b

/-- The canonical form of a sample buffer: the indices rise strictly, so that buffers with equal
contents are equal lists. -/
def SampleBuf.wf : SampleBuf → Bool
  | [] => true
  | (j, _) :: b => SampleBuf.risingFrom j b

/-- `IBUF[r]` (R50); there are 20 receivers (log entry 16). -/
def ibufAt (d : DecRegs) (r : Nat) : SampleBuf := if h : r < 20 then d.ibuf[r] else []

/-- `QBUF[r]` (R50). -/
def qbufAt (d : DecRegs) (r : Nat) : SampleBuf := if h : r < 20 then d.qbuf[r] else []

/-- Cell `i` of `IBUF[r]`, `none` while it holds no value. -/
def iCell (s : State) (r i : Nat) : Option Rat := SampleBuf.read (ibufAt s.dec r) i

/-- Cell `i` of `QBUF[r]`, `none` while it holds no value. -/
def qCell (s : State) (r i : Nat) : Option Rat := SampleBuf.read (qbufAt s.dec r) i

/-- Cell `i` of `MICBUF`, `none` while it holds no value. -/
def micCell (s : State) (i : Nat) : Option Rat := SampleBuf.read s.dec.micbuf i

/-- Every sample buffer is in canonical form: the model's `Memory.wf`. -/
def memoryWf (s : State) : Bool :=
  s.dec.ibuf.toList.all SampleBuf.wf && s.dec.qbuf.toList.all SampleBuf.wf && SampleBuf.wf s.dec.micbuf

/-- `IBUF[r][idx] <- x; QBUF[r][idx] <- y` (R140, R147). There is no buffer to write for an index of
20 or more (log entry 16). -/
def storeIq (d : DecRegs) (r : Nat) (x y : Rat) : DecRegs :=
  { d with
    ibuf := d.ibuf.setIfInBounds r (SampleBuf.write (ibufAt d r) d.idx x)
    qbuf := d.qbuf.setIfInBounds r (SampleBuf.write (qbufAt d r) d.idx y) }

/-- `MICBUF[idx] <- x` (R149). -/
def storeMic (d : DecRegs) (x : Rat) : DecRegs :=
  { d with micbuf := SampleBuf.write d.micbuf d.idx x }

/-- `IBUF[r][0 .. BATCH-1]` as a hand-off carries it: a cell without a value is free (U8, log entry
7). -/
def ibufContents (s : State) (r : Nat) : List Rat :=
  (List.range s.par.batch).map fun i => (iCell s r i).getD (Config.unwrittenCell s.session 0 r i)

/-- `QBUF[r][0 .. BATCH-1]` as a hand-off carries it. -/
def qbufContents (s : State) (r : Nat) : List Rat :=
  (List.range s.par.batch).map fun i => (qCell s r i).getD (Config.unwrittenCell s.session 1 r i)

/-! ### Refusals and exceptions -/

/-- `refuse(reason)`: the event `Refused(reason)` and no other change (R8, R266). -/
def refuse (why : RefuseReason) (s : State) : State := s.emit (.refused why)

/-- An operation that is refused while the block is stopped; the test is made first (R35, R266,
R272 (a)). -/
def whenRunning (s : State) (k : State → State) : Host.Outcome State Fault Refusal :=
  if s.run then .next (k s) else .next (refuse .notRunning s)

/-- The three exceptions with the value each records (R261). -/
inductive Exc where
  | syncLost (now : Nat)
  | sequenceGap (expected observed : BitVec 32)
  | unknownKeyerState (code : BitVec 3)
deriving DecidableEq, Repr

/-- The number `EXC_CODE` gives an exception (R261). -/
def excCode (p : Params) : Exc → Nat
  | .syncLost _ => p.excCode.syncLost
  | .sequenceGap _ _ => p.excCode.sequenceGap
  | .unknownKeyerState _ => p.excCode.unknownKeyerState

/-- A sync-lost frame at `now` is reported: the first since reset or START, or more than
`SYNC_REPORT_GAP_MS` after the last report (R141). -/
def syncReportDue (s : State) (now : Nat) : Bool :=
  !s.dec.syncRepValid || decide (s.dec.syncRepTime + s.par.syncReportGapMs < now)

/-- `raise X(info)`: taking an exception. Its whole effect is the event and the registers R261 gives
for it: nothing is saved, no mode changes, nothing is masked and control goes nowhere (R260, R273);
there is accordingly no return operation (R274). SyncLost emits and records its time only when a
report is due (R141, R263). SequenceGap and UnknownKeyerState are the event only; what GAP_CHECK and
KEY_TICK do besides is in their rules (R178, R244). -/
def raise (x : Exc) (s : State) : State :=
  match x with
  | .syncLost now =>
    if syncReportDue s now then
      (s.emit (.syncLost now)).withDec { s.dec with syncRepValid := true, syncRepTime := now }
    else s
  | .sequenceGap e q => s.emit (.sequenceGap e q)
  | .unknownKeyerState c => s.emit (.unknownKeyerState c)

/-! ### Reset, START and STOP -/

/-- Every non-configuration register at its reset value (R60, R291, R292). The sample cells are
unspecified again, with new free values if a session ends (log entry 7); the trace, the results
and the operations still to come are not registers. -/
def resetUnits (s : State) : State :=
  { s with
    run := false
    paddle := ⟨false, false, false⟩
    dec := DecRegs.reset
    ccg := CcgRegs.reset s.par
    sq := SeqRegs.reset
    kr := KeyRegs.reset s.par
    session := if s.run then s.session + 1 else s.session }

/-! ### Fetching the next operation -/

/-- The result of the last ENCODE, which the word `LAST` names (R130). -/
def lastFrame (s : State) : Option (Vector Byte 512) :=
  s.results.reverse.findSome? fun r =>
    match r with
    | .frame o => some o
    | .datagram _ => none
    | .command _ => none

/-- What the decoder reads of the machine (R135). -/
def fetchContext (s : State) : Context where
  par := s.par
  rr := s.ccg.rr
  ks := s.kr.ks
  hdrPhase := s.sq.hdrPhase
  cc := s.ccg.cc
  last := lastFrame s

/-- The next presented operation and the state from which it is performed: the operation has left
the list of those to come (R11, log entry 2). -/
def fetch (s : State) : Option (Request × State) :=
  match s.script with
  | [] => none
  | r :: rest => some (r, s.withScript rest)

/-- `s` with a word of the opcode table presented as the next operation, and running, as an agent
must have made it for the operation not to be refused (log entry 4). -/
def presentWord (s : State) (nbits w : Nat) : State :=
  match tableWordRequest nbits w with
  | some (r, rr) =>
    { s with
      run := true
      ccg := if nbits < 24 then { s.ccg with rr := rr } else s.ccg
      script := r :: s.script }
  | none => s

end Sys2Proof.Machine
end

