-- ==== Sys2Proof/Machine/Ctl.lean ====
section
/-! DEFINITION. The operations of the whole block: START, STOP (R291, R292) and CFG_WRITE (R47). -/

namespace Sys2Proof.Machine

/-- START while stopped: the reset values, `force_all` from `CFG.nrx`, and the block runs (R291). -/
def startBlock (s : State) : State :=
  let t := resetUnits s
  { t with ccg := { t.ccg with forceAll := s.cfg.nrx }, run := true }

/-- START (R291): nothing happens while running. -/
def execStart (s : State) : Host.Outcome State Fault Refusal :=
  .next (if s.run then s else startBlock s)

/-- STOP (R292): the reset values, silently, whether or not the block runs. -/
def execStop (s : State) : Host.Outcome State Fault Refusal :=
  .next (resetUnits s)

/-- `RX[r]` becomes `x`. -/
def putRx (s : State) (r : Nat) (x : Rx) : State := s.withRx (s.rx.setIfInBounds r x)

/-- `TP.tx_freq <- f`; a value that differs also sets `TP.tx_freq_changed` (R34, R47). -/
def putTxFreq (s : State) (f : BitVec 32) : State :=
  s.withTp { s.tp with txFreq := f, txFreqChanged := s.tp.txFreqChanged || f != s.tp.txFreq }

/-- `RX[r].freq <- f`; a value that differs also sets `RX[r].freq_changed` (R34, R47). -/
def putRxFreq (s : State) (r : Nat) (f : BitVec 32) : State :=
  let x := rxAt s r
  putRx s r { x with freq := f, freqChanged := x.freqChanged || f != x.freq }

/-- The write of a legal value to a configuration register (R23, R40 to R47); `none` where the value
is illegal or the name is no configuration register. `RX[r].freq_changed` is one (R46), `TP.tx_freq_changed`
is not (log entry 11). -/
def writeConfig (reg : CfgReg) (v : Rat) (s : State) : Option State :=
  match reg with
  | .paddlePtt => (asBit v).map fun b => s.withPaddle { s.paddle with ptt := b }
  | .paddleDash => (asBit v).map fun b => s.withPaddle { s.paddle with dash := b }
  | .paddleDot => (asBit v).map fun b => s.withPaddle { s.paddle with dot := b }
  | .nrx => (asRange 5 1 20 v).map fun b => s.withCfg { s.cfg with nrx := b }
  | .micGain => some (s.withCfg { s.cfg with micGain := v })
  | .speed => (asRange 6 1 60 v).map fun b => s.withKcfg { s.kcfg with speed := b }
  | .weight => (asRange 7 0 100 v).map fun b => s.withKcfg { s.kcfg with weight := b }
  | .mode => (asRange 2 0 2 v).map fun b => s.withKcfg { s.kcfg with mode := b }
  | .spacing => (asBit v).map fun b => s.withKcfg { s.kcfg with spacing := b }
  | .hang => (asBits 10 v).map fun b => s.withKcfg { s.kcfg with hang := b }
  | .reversed => (asBit v).map fun b => s.withKcfg { s.kcfg with reversed := b }
  | .modeBit => (asBit v).map fun b => s.withTp { s.tp with modeBit := b }
  | .sampleRate => (asBits 2 v).map fun b => s.withTp { s.tp with sampleRate := b }
  | .clockSrc => (asBits 3 v).map fun b => s.withTp { s.tp with clockSrc := b }
  | .outClass => (asBits 7 v).map fun b => s.withTp { s.tp with outClass := b }
  | .duplex => (asBit v).map fun b => s.withTp { s.tp with duplex := b }
  | .devPresent => (asBits 2 v).map fun b => s.withTp { s.tp with devPresent := b }
  | .atten => (asBits 2 v).map fun b => s.withTp { s.tp with atten := b }
  | .band => (asBand v).map fun b => s.withTp { s.tp with band := b }
  | .mox => (asBit v).map fun b => s.withTp { s.tp with mox := b }
  | .ptt => (asBit v).map fun b => s.withTp { s.tp with ptt := b }
  | .dspCw => (asBit v).map fun b => s.withTp { s.tp with dspCw := b }
  | .internalCw => (asBit v).map fun b => s.withTp { s.tp with internalCw := b }
  | .txFreq => (asBits 32 v).map fun b => putTxFreq s b
  | .drive => (asBits 8 v).map fun b => s.withTp { s.tp with drive := b }
  | .sidetoneVol => (asBits 7 v).map fun b => s.withTp { s.tp with sidetoneVol := b }
  | .pttDelay => (asBits 8 v).map fun b => s.withTp { s.tp with pttDelay := b }
  | .sidetoneFreq => (asBits 12 v).map fun b => s.withTp { s.tp with sidetoneFreq := b }
  | .rxFreq r => if r < 20 then (asBits 32 v).map fun b => putRxFreq s r b else none
  | .rxFreqChanged r =>
    if r < 20 then (asBit v).map fun b => putRx s r { rxAt s r with freqChanged := b } else none
  | .rxAdc r => if r < 20 then (asBits 2 v).map fun b => putRx s r { rxAt s r with adc := b } else none
  | .notConfig _ => none

/-- CFG_WRITE (R47, R266): accepted whether or not the block runs; an illegal value is refused. -/
def execCfgWrite (reg : CfgReg) (v : Rat) (s : State) : Host.Outcome State Fault Refusal :=
  .next ((writeConfig reg v s).getD (refuse .illegalValue s))

end Sys2Proof.Machine
end

