-- ==== Sys2Proof/Machine/Ccg.lean ====
section
/-! DEFINITION. Unit CCG: CC_STEP in its eight states, CC0 to CC7 (R190 to R213). -/

namespace Sys2Proof.Machine

/-- What a state of CC_STEP decides (R190): a refusal, or its five bytes with MOX clear, the next
state, and the machine with the other registers the state writes. -/
inductive CcOutcome where
  | refused (why : RefuseReason)
  | done (c : Vector Byte 5) (next : BitVec 3) (t : State)

/-- CC_STEP around the body of one state (R190): refused while stopped; a state that refuses writes
nothing; otherwise the MOX adjustment, then `CC` and `rr`. The MOX bit and the fields are computed
from the configuration as it stood at the start (R84, R192). -/
def ccStep (s : State) (body : CcOutcome) : Host.Outcome State Fault Refusal :=
  whenRunning s fun s =>
    match body with
    | .refused why => refuse why s
    | .done b next t => t.withCcg { t.ccg with cc := withMox s b, rr := next }

/-- The bytes of state `k` that send no receiver's frequency, under the C0 of `LAYOUT`. -/
def stateBytes (s : State) (k : Fin 8) : Vector Byte 5 := layoutBytes s k s.par.layout.c0[k] 0#32

/-- State 0: the receiver count must fit its field (R195, R197). -/
def ccBody0 (s : State) : CcOutcome :=
  if 2 ^ s.par.nrxWidth < s.cfg.nrx.toNat then .refused .cfgRange else .done (stateBytes s 0) 1#3 s

/-- State 1: the TX frequency; its change flag is cleared (R198). -/
def ccBody1 (s : State) : CcOutcome :=
  .done (stateBytes s 1) 2#3 (s.withTp { s.tp with txFreqChanged := false })

/-- The receiver state 2 sends: the next one while `force_all` counts down, else the least changed
one, else none (R199). -/
def rxSelected (s : State) : Option Nat :=
  let n := s.cfg.nrx.toNat
  if 0 < s.ccg.forceAll.toNat then some (n - min s.ccg.forceAll.toNat n)
  else (List.range n).find? fun r => (rxAt s r).freqChanged

/-- `force_all` after a visit to state 2 (R199). -/
def countDown (s : State) : State :=
  s.withCcg { s.ccg with
    forceAll := if 0 < s.ccg.forceAll.toNat then s.ccg.forceAll - 1#5 else s.ccg.forceAll }

/-- State 2: the selected receiver's frequency, its change flag cleared; `CTRL_DEFAULT` when none is
selected; refused when the receiver has no command byte (R191, R199, R200). -/
def ccBody2 (s : State) : CcOutcome :=
  match rxSelected s with
  | none => .done s.par.ctrlDefault 3#3 (countDown s)
  | some r =>
    match rxfreqC0At s.par r with
    | none => .refused .cfgRange
    | some c0 =>
      .done (layoutBytes s 2 c0 (rxAt s r).freq) 3#3
        (countDown (putRx s r { rxAt s r with freqChanged := false }))

/-- State 3: drive level and filter selection; the routing bytes are recomputed, and state 4 is next
exactly when they differ from the cache (R202, R204). -/
def ccBody3 (s : State) : CcOutcome :=
  if route s = s.ccg.adcCache then .done (stateBytes s 3) 5#3 s
  else .done (stateBytes s 3) 4#3 (s.withCcg { s.ccg with adcCache := route s })

/-- State 4: the cached routing bytes (R205). -/
def ccBody4 (s : State) : CcOutcome := .done (stateBytes s 4) 5#3 s

/-- State 5: keyer enable, sidetone volume, PTT delay (R206). -/
def ccBody5 (s : State) : CcOutcome := .done (stateBytes s 5) 6#3 s

/-- State 6: hang time and sidetone frequency (R207). -/
def ccBody6 (s : State) : CcOutcome := .done (stateBytes s 6) 7#3 s

/-- State 7: keyer speed, mode, weight and the reversed bit (R208). -/
def ccBody7 (s : State) : CcOutcome := .done (stateBytes s 7) 0#3 s

/-- CC0 (R195, R197). -/
def execCc0 (s : State) : Host.Outcome State Fault Refusal := ccStep s (ccBody0 s)

/-- CC1 (R198). -/
def execCc1 (s : State) : Host.Outcome State Fault Refusal := ccStep s (ccBody1 s)

/-- CC2 (R199, R200). -/
def execCc2 (s : State) : Host.Outcome State Fault Refusal := ccStep s (ccBody2 s)

/-- CC3 (R202 to R204). -/
def execCc3 (s : State) : Host.Outcome State Fault Refusal := ccStep s (ccBody3 s)

/-- CC4 (R205). -/
def execCc4 (s : State) : Host.Outcome State Fault Refusal := ccStep s (ccBody4 s)

/-- CC5 (R206). -/
def execCc5 (s : State) : Host.Outcome State Fault Refusal := ccStep s (ccBody5 s)

/-- CC6 (R207). -/
def execCc6 (s : State) : Host.Outcome State Fault Refusal := ccStep s (ccBody6 s)

/-- CC7 (R208). -/
def execCc7 (s : State) : Host.Outcome State Fault Refusal := ccStep s (ccBody7 s)

end Sys2Proof.Machine
end

