-- ==== Sys2Proof/Machine/Dec.lean ====
section
/-! DEFINITION. Unit DEC: DECODE.OK and DECODE.SYNCLOST (R140 to R152). -/

namespace Sys2Proof.Machine

/-- The I and Q samples of receiver `r` in the period at `base` go to cell `idx` of its buffers
(R147, R148). -/
def storeReceiver (f : Vector Byte 512) (base : Nat) (d : DecRegs) (r : Nat) : DecRegs :=
  storeIq d r (sampleValue f (base + 6 * r)) (sampleValue f (base + 6 * r + 3))

/-- The samples of receivers 0 to `n - 1`, in ascending order (R82 (b), R147). -/
def storeReceivers (f : Vector Byte 512) (base n : Nat) (d : DecRegs) : DecRegs :=
  (List.range n).foldl (storeReceiver f base) d

/-- Receivers 0 to `n - 1` are flagged ready for DSP, in ascending order, each event with a copy of
the buffers (R82 (c), R150). -/
def handOff (n : Nat) (s : State) : State :=
  (List.range n).foldl (fun t r => t.emit (.readyForDsp r (ibufContents t r) (qbufContents t r))) s

/-- The shared index moves on, with a hand-off when it reaches `BATCH`; the cells are not cleared
(R150). -/
def advanceIdx (n : Nat) (s : State) : State :=
  if s.dec.idx + 1 = s.par.batch then
    let t := handOff n s
    t.withDec { t.dec with idx := 0 }
  else s.withDec { s.dec with idx := s.dec.idx + 1 }

/-- One sample period: the receivers' samples, the mic sample, the index (R146 to R150). -/
def samplePeriod (f : Vector Byte 512) (n : Nat) (g : Rat) (s : State) (p : Nat) : State :=
  let base := periodBase n p
  let m := micValue f g (base + 6 * n)
  let d := storeReceivers f base n s.dec
  advanceIdx n ((s.withDec (storeMic d m)).emit (.mic m))

/-- The walk over the first `k` sample periods, in ascending order (R146). -/
def walkPeriods (f : Vector Byte 512) (n : Nat) (g : Rat) (k : Nat) (s : State) : State :=
  (List.range k).foldl (samplePeriod f n g) s

/-- Bytes 3..7 of the frame (R143). -/
def statusBytes (f : Vector Byte 512) : Vector Byte 5 := #v[f[3], f[4], f[5], f[6], f[7]]

/-- The status bytes are stored and reported, and the paddle bits taken from the first (R143,
R144). -/
def takeStatus (f : Vector Byte 512) (s : State) : State :=
  ((s.withDec { s.dec with status := statusBytes f }).emit (.status (statusBytes f))).withPaddle
    (paddleOf s.par.statusLayout (statusBytes f)[0])

/-- An accepted frame: status, then every whole sample period, under one value of `CFG.nrx` and
`CFG.mic_gain` (R84, R140). -/
def acceptFrame (f : Vector Byte 512) (s : State) : State :=
  walkPeriods f s.cfg.nrx.toNat s.cfg.micGain (periodCount s.cfg.nrx.toNat) (takeStatus f s)

/-- DECODE.OK (R140, R143 to R150). `now` is not used: the SYNC matched. -/
def execDecodeOk (f : Vector Byte 512) (_now : Nat) (s : State) : Host.Outcome State Fault Refusal :=
  whenRunning s (acceptFrame f)

/-- DECODE.SYNCLOST (R141, R142): the frame is dropped; the report is rate-limited. -/
def execDecodeSynclost (_f : Vector Byte 512) (now : Nat) (s : State) :
    Host.Outcome State Fault Refusal :=
  whenRunning s (raise (.syncLost now))

end Sys2Proof.Machine
end

