-- ==== Sys2Proof/Machine/Enc.lean ====
section
/-! DEFINITION. Unit ENC: ENCODE (R170 to R172). -/

namespace Sys2Proof.Machine

/-- The half-frame of format `HF_OUT`: SYNC, the five control bytes, the payload (R72, R102, R170). -/
def halfFrame (p : Params) (c : Vector Byte 5) (payload : Vector Byte 504) : Vector Byte 512 :=
  (p.sync ++ c ++ payload).cast rfl

/-- ENCODE (R170): pure, accepted whether or not the block runs; it only returns the frame. -/
def execEncode (c : Vector Byte 5) (p : Vector Byte 504) (s : State) :
    Host.Outcome State Fault Refusal :=
  .next (s.answer (.frame (halfFrame s.par c p)))

end Sys2Proof.Machine
end

