-- ==== Sys2Proof/Machine/Key.lean ====
section
/-! DEFINITION. Unit KEY: KEY_TICK in its seven states and in the unrecognised one (R220 to R245). -/

namespace Sys2Proof.Machine

/-! ### Shared procedures -/

/-- `ks <- st`, as `KS_CODE` codes it (R8, R120). -/
def toKeyerState (st : KeyerState) (s : State) : State :=
  s.withKr { s.kr with ks := ksCodeOf s.par.ksCode st }

/-- `key_down()` (R224): nothing while the key is down; the first of a sequence raises the transmit
request, whose event comes first. -/
def keyDown (s : State) : State :=
  if s.kr.key then s
  else
    let t := if s.kr.txReq then s else (s.withKr { s.kr with txReq := true }).emit .moxOn
    (t.withKr { t.kr with key := true }).emit .keyDown

/-- `key_up()` (R224): the hang counter is reloaded at every key-up. -/
def keyUp (s : State) : State :=
  (s.withKr { s.kr with key := false, cwvox := s.kcfg.hang.setWidth 16 }).emit .keyUp

/-- `enter_dot()` with the dash paddle sampled as `h` (R225). -/
def enterDot (h : Bool) (s : State) : State :=
  let t := keyDown (s.withKr { s.kr with dotMem := false, dotHeld := false, dashHeld := h })
  toKeyerState .senddot (t.withKr { t.kr with cnt := 0#16 })

/-- `enter_dash()` with the dot paddle sampled as `d` (R226). -/
def enterDash (d : Bool) (s : State) : State :=
  let t := keyDown (s.withKr { s.kr with dashMem := false, dashHeld := false, dotHeld := d })
  toKeyerState .senddash (t.withKr { t.kr with cnt := 0#16 })

/-- `idle()` (R227): to EXITLOOP only when it has something to do. -/
def idle (s : State) : State :=
  if decide (0 < s.kr.cwvox.toNat) || s.kr.txReq then toKeyerState .exitloop s else s

/-- `to_letterspace()` (R234). -/
def toLetterspace (s : State) : State :=
  toKeyerState .letterspace
    (s.withKr { s.kr with dotMem := false, dashMem := false, cnt := 0#16 })

/-- Both elements are asked for: `TIE_DASH_FIRST` says which is sent (R227, R234, R238). -/
def enterTied (d h : Bool) (s : State) : State :=
  if s.par.tieDashFirst then enterDash d s else enterDot h s

/-- One more tick of the element or interval. -/
def countTick (s : State) : State := s.withKr { s.kr with cnt := s.kr.cnt + 1#16 }

/-- The interval of `len` ticks ends with this tick: `cnt + 1 >= len` (R228 to R234). -/
def intervalOver (s : State) (len : Nat) : Bool := decide (len ≤ s.kr.cnt.toNat + 1)

/-- The end of an element: key up, and the matching DELAY state with its counter at 0 (R228, R229). -/
def endElement (next : KeyerState) (s : State) : State :=
  let t := keyUp s
  toKeyerState next (t.withKr { t.kr with cnt := 0#16 })

/-- After a space with nothing pending: LETTERSPACE if it is enabled, else EXITLOOP (R230, R232). -/
def endSequence (s : State) : State :=
  if s.kcfg.spacing then toLetterspace s else toKeyerState .exitloop s

/-! ### The rules of the states -/

/-- CHECK (R227). -/
def ruleCheck (d h : Bool) (s : State) : State :=
  let straight := s.kcfg.mode == 0#2
  if s.kr.key then
    if straight && h then s else keyUp s
  else if straight then
    if h then keyDown s
    else if d then enterDot h s
    else idle s
  else if h && d then enterTied d h s
  else if h then enterDash d s
  else if d then enterDot h s
  else idle s

/-- SENDDOT (R228). -/
def ruleSenddot (s : State) : State :=
  if intervalOver s (dotLen s.kcfg) then endElement .dotdelay s else countTick s

/-- SENDDASH (R229). -/
def ruleSenddash (s : State) : State :=
  if intervalOver s (dashLen s.kcfg) then endElement .dashdelay s else countTick s

/-- Mode A with both paddles released clears the held flag of the opposite element before the tests
(R230, R231, R232). -/
def modeARelease (s : State) (d h : Bool) : Bool := s.kcfg.mode == 1#2 && !d && !h

/-- The decision after a dot: the dash by memory, live paddle or held flag, then the dot, then the
end of the sequence (R230, R231). -/
def decideAfterDot (d h : Bool) (s : State) : State :=
  let t := if modeARelease s d h then s.withKr { s.kr with dashHeld := false } else s
  if t.kr.dashMem || h || t.kr.dashHeld then enterDash d t
  else if d then enterDot h t
  else endSequence t

/-- DOTDELAY (R230). -/
def ruleDotdelay (d h : Bool) (s : State) : State :=
  if intervalOver s (dotLen s.kcfg) then decideAfterDot d h s else countTick s

/-- The decision after a dash, the mirror image (R232). -/
def decideAfterDash (d h : Bool) (s : State) : State :=
  let t := if modeARelease s d h then s.withKr { s.kr with dotHeld := false } else s
  if t.kr.dotMem || d || t.kr.dotHeld then enterDot h t
  else if h then enterDash d t
  else endSequence t

/-- DASHDELAY (R232): the space after a dash is one dot length. -/
def ruleDashdelay (d h : Bool) (s : State) : State :=
  if intervalOver s (dotLen s.kcfg) then decideAfterDash d h s else countTick s

/-- The decision after the letter space: the memories alone (R234). -/
def decideAfterLetter (d h : Bool) (s : State) : State :=
  if s.kr.dotMem && s.kr.dashMem then enterTied d h s
  else if s.kr.dashMem then enterDash d s
  else if s.kr.dotMem then enterDot h s
  else toKeyerState .exitloop s

/-- LETTERSPACE (R234). -/
def ruleLetterspace (d h : Bool) (s : State) : State :=
  if intervalOver s (2 * dotLen s.kcfg) then decideAfterLetter d h s else countTick s

/-- EXITLOOP (R235). -/
def ruleExitloop (s : State) : State :=
  if 0 < s.kr.cwvox.toNat then s.withKr { s.kr with cwvox := s.kr.cwvox - 1#16 }
  else
    let t := if s.kr.txReq then (s.withKr { s.kr with txReq := false }).emit .moxOff else s
    toKeyerState .check t

/-- The unrecognised state (R244): reported with the code, the key forced up, EXITLOOP next. -/
def ruleUnknown (s : State) : State :=
  let t := raise (.unknownKeyerState s.kr.ks) s
  toKeyerState .exitloop (if t.kr.key then keyUp t else t)

/-! ### KEY_TICK -/

/-- KEY_TICK run in keyer state `st` (`none`: the unrecognised one) with that state's rule (R220): the
paddles are sampled once, edges latched, one state rule runs, and the samples are kept. -/
def keyTick (st : Option KeyerState) (rule : Bool → Bool → State → State) (s : State) :
    Host.Outcome State Fault Refusal :=
  whenRunning s fun s =>
    let d := s.paddle.dot
    let h := s.paddle.dash
    let t := rule d h (s.withKr (latchEdges st d h s.kr))
    t.withKr { t.kr with dotPrev := d, dashPrev := h }

/-- KS_CHECK (R227). -/
def execKsCheck (s : State) : Host.Outcome State Fault Refusal := keyTick (some .check) ruleCheck s

/-- KS_SENDDOT (R228). -/
def execKsSenddot (s : State) : Host.Outcome State Fault Refusal :=
  keyTick (some .senddot) (fun _ _ => ruleSenddot) s

/-- KS_SENDDASH (R229). -/
def execKsSenddash (s : State) : Host.Outcome State Fault Refusal :=
  keyTick (some .senddash) (fun _ _ => ruleSenddash) s

/-- KS_DOTDELAY (R230). -/
def execKsDotdelay (s : State) : Host.Outcome State Fault Refusal :=
  keyTick (some .dotdelay) ruleDotdelay s

/-- KS_DASHDELAY (R232). -/
def execKsDashdelay (s : State) : Host.Outcome State Fault Refusal :=
  keyTick (some .dashdelay) ruleDashdelay s

/-- KS_LETTERSPACE (R234). -/
def execKsLetterspace (s : State) : Host.Outcome State Fault Refusal :=
  keyTick (some .letterspace) ruleLetterspace s

/-- KS_EXITLOOP (R235). -/
def execKsExitloop (s : State) : Host.Outcome State Fault Refusal :=
  keyTick (some .exitloop) (fun _ _ => ruleExitloop) s

/-- KS_UNKNOWN (R244). -/
def execKsUnknown (s : State) : Host.Outcome State Fault Refusal :=
  keyTick none (fun _ _ => ruleUnknown) s

end Sys2Proof.Machine
end

