-- ==== Sys2Proof/Machine/Seq.lean ====
section
/-! DEFINITION. Unit SEQ: TX_WRITE, GAP_CHECK and HWCMD (R175 to R180). -/

namespace Sys2Proof.Machine

/-- The 8-byte datagram header of format `DG_HDR` (R74, R103). -/
def datagramHeader (p : Params) (seq : BitVec 32) : List Byte := p.devSignature.toList ++ bytesBE seq

/-- The write that bears the header: `seq` is used, then incremented modulo 2^32 (R175, R176). -/
def writeWithHeader (o : Vector Byte 512) (s : State) : State :=
  (s.answer (.datagram (datagramHeader s.par s.sq.seq ++ o.toList))).withSq
    { s.sq with seq := s.sq.seq + 1#32, hdrPhase := true }

/-- The raw write (R175). -/
def writeRaw (o : Vector Byte 512) (s : State) : State :=
  (s.answer (.datagram o.toList)).withSq { s.sq with hdrPhase := false }

/-- TX_WRITE.HDR (R175, R176). -/
def execTxWriteHdr (o : Vector Byte 512) (s : State) : Host.Outcome State Fault Refusal :=
  whenRunning s (writeWithHeader o)

/-- TX_WRITE.NOHDR (R175). -/
def execTxWriteNohdr (o : Vector Byte 512) (s : State) : Host.Outcome State Fault Refusal :=
  whenRunning s (writeRaw o)

/-- The number GAP_CHECK expects: the successor of the last one seen, modulo 2^32 (R178). -/
def expectedSeq (s : State) : BitVec 32 := s.sq.lastSeen + 1#32

/-- The gap test and the tracker, which follows the observed number in every case (R178, R264). -/
def checkGap (q : BitVec 32) (s : State) : State :=
  let t := if s.sq.lastSeenValid && q != expectedSeq s then raise (.sequenceGap (expectedSeq s) q) s else s
  t.withSq { s.sq with lastSeen := q, lastSeenValid := true }

/-- GAP_CHECK (R178). -/
def execGapCheck (q : BitVec 32) (s : State) : Host.Outcome State Fault Refusal :=
  whenRunning s (checkGap q)

/-- The hardware command byte (R104, R180). -/
def hwcmdByte : HwKind → Byte
  | .stop => 0x00#8
  | .start => 0x01#8
  | .startWb => 0x03#8

/-- HWCMD.STOP (R180): pure, accepted whether or not the block runs. -/
def execHwcmdStop (s : State) : Host.Outcome State Fault Refusal :=
  .next (s.answer (.command (hwcmdByte .stop)))

/-- HWCMD.START (R180). -/
def execHwcmdStart (s : State) : Host.Outcome State Fault Refusal :=
  .next (s.answer (.command (hwcmdByte .start)))

/-- HWCMD.START_WB (R180). -/
def execHwcmdStartWb (s : State) : Host.Outcome State Fault Refusal :=
  .next (s.answer (.command (hwcmdByte .startWb)))

end Sys2Proof.Machine
end

