-- ==== Sys2Proof/Machine/Dispatch.lean ====
section
/-! DEFINITION. Each instruction's arm: one direct call of its meaning. -/

namespace Sys2Proof.Machine

def exec (i : Instr) (s : State) : Host.Outcome State Fault Refusal :=
  match i with
  | .decodeOk f now => Sys2Proof.Machine.execDecodeOk f now s
  | .decodeSynclost f now => Sys2Proof.Machine.execDecodeSynclost f now s
  | .encode c p => Sys2Proof.Machine.execEncode c p s
  | .txWriteHdr o => Sys2Proof.Machine.execTxWriteHdr o s
  | .txWriteNohdr o => Sys2Proof.Machine.execTxWriteNohdr o s
  | .gapCheck q => Sys2Proof.Machine.execGapCheck q s
  | .start => Sys2Proof.Machine.execStart s
  | .stop => Sys2Proof.Machine.execStop s
  | .cfgWrite reg v => Sys2Proof.Machine.execCfgWrite reg v s
  | .hwcmdStop => Sys2Proof.Machine.execHwcmdStop s
  | .hwcmdStart => Sys2Proof.Machine.execHwcmdStart s
  | .hwcmdStartWb => Sys2Proof.Machine.execHwcmdStartWb s
  | .cc0 => Sys2Proof.Machine.execCc0 s
  | .cc1 => Sys2Proof.Machine.execCc1 s
  | .cc2 => Sys2Proof.Machine.execCc2 s
  | .cc3 => Sys2Proof.Machine.execCc3 s
  | .cc4 => Sys2Proof.Machine.execCc4 s
  | .cc5 => Sys2Proof.Machine.execCc5 s
  | .cc6 => Sys2Proof.Machine.execCc6 s
  | .cc7 => Sys2Proof.Machine.execCc7 s
  | .ksCheck => Sys2Proof.Machine.execKsCheck s
  | .ksSenddot => Sys2Proof.Machine.execKsSenddot s
  | .ksSenddash => Sys2Proof.Machine.execKsSenddash s
  | .ksDotdelay => Sys2Proof.Machine.execKsDotdelay s
  | .ksDashdelay => Sys2Proof.Machine.execKsDashdelay s
  | .ksLetterspace => Sys2Proof.Machine.execKsLetterspace s
  | .ksExitloop => Sys2Proof.Machine.execKsExitloop s
  | .ksUnknown => Sys2Proof.Machine.execKsUnknown s

end Sys2Proof.Machine
end

