-- ==== Sys2Proof/Machine/Step.lean ====
section
/-! DEFINITION. One step of the block: the next presented operation, whole (R11, R80). -/

namespace Sys2Proof.Machine

/-- One step. With nothing presented the block does nothing (R11). Otherwise the next operation is
taken from the list of those presented, the row it is is selected, and it is performed. -/
def step (s : State) : Host.Outcome State Fault Refusal :=
  match fetch s with
  | none => .next s
  | some (r, t) =>
    match decode (fetchContext s) r with
    | .ok i => exec i t
    | .error why => .refused (.undecodable why)

/-- `s` with a word of the opcode table presented as its next operation (log entry 4). -/
def State.withFetchWord (s : State) (nbits w : Nat) : State := presentWord s nbits w

end Sys2Proof.Machine
end

