-- ==== Sys2Proof/Safety.lean ====
section
/-! DEFINITION. What counts as a good state: the invariant that holds at reset and that every step keeps. -/

namespace Sys2Proof.Machine

/-- The configuration registers hold legal values, as CFG_WRITE guarantees (R40, R42, R47). -/
def legalConfig (s : State) : Bool :=
  decide (1 ≤ s.cfg.nrx.toNat) && decide (s.cfg.nrx.toNat ≤ 20) &&
  decide (1 ≤ s.kcfg.speed.toNat) && decide (s.kcfg.speed.toNat ≤ 60) &&
  decide (s.kcfg.weight.toNat ≤ 100) && decide (s.kcfg.mode.toNat ≤ 2)

/-- Every index the buffer lists is below `n`. -/
def SampleBuf.below (n : Nat) (b : SampleBuf) : Bool := b.all fun c => decide (c.1 < n)

/-- The buffers have no cell at or above `BATCH`, and `idx` is a cell (R26, R50, R51). -/
def buffersInBatch (s : State) : Bool :=
  decide (s.dec.idx < s.par.batch) &&
  s.dec.ibuf.toList.all (SampleBuf.below s.par.batch) &&
  s.dec.qbuf.toList.all (SampleBuf.below s.par.batch) &&
  SampleBuf.below s.par.batch s.dec.micbuf

/-- The keyer's invariant: `ks` names a state (R265); the flags that gate the element in progress
are clear, and every latch is clear in CHECK and EXITLOOP (R237); the key is down exactly in an
element or in CHECK, and never without the transmit request, which also outlasts the hang time
(R224, R235, R245). -/
def keyerSound (p : Params) (k : KeyRegs) : Bool :=
  (match keyerStateOf p.ksCode k.ks with
   | none => false
   | some .check => !k.dotMem && !k.dashMem && !k.dotHeld && !k.dashHeld
   | some .senddot => !k.dotMem && !k.dotHeld && k.key
   | some .senddash => !k.dashMem && !k.dashHeld && k.key
   | some .dotdelay => !k.dotMem && !k.dotHeld && !k.key && k.txReq
   | some .dashdelay => !k.dashMem && !k.dashHeld && !k.key && k.txReq
   | some .letterspace => !k.dotHeld && !k.dashHeld && !k.key && k.txReq
   | some .exitloop => !k.dotMem && !k.dashMem && !k.dotHeld && !k.dashHeld && !k.key) &&
  (!k.key || k.txReq) && (k.cwvox == 0#16 || k.txReq)

/-- The counters stay in the ranges R58 and R236 (e) give them. -/
def countersInRange (s : State) : Bool :=
  decide (s.kr.cnt.toNat ≤ 7199) && decide (s.kr.cwvox.toNat ≤ 1023) && decide (s.ccg.forceAll.toNat ≤ 20)

/-- A stopped block's registers are at their reset values, but for `PADDLE`, which CFG_WRITE can
write (R23, R35, R291: "already so after reset or STOP"). -/
def stoppedAtReset (s : State) : Bool :=
  s.run || (s.dec == DecRegs.reset && s.ccg == CcgRegs.reset s.par && s.sq == SeqRegs.reset &&
    s.kr == KeyRegs.reset s.par)

/-- The invariant. -/
structure Inv (s : State) : Prop where
  params : paramsWf s.par = true
  config : legalConfig s = true
  memory : memoryWf s = true
  batch : buffersInBatch s = true
  keyer : keyerSound s.par s.kr = true
  counters : countersInRange s = true
  stopped : stoppedAtReset s = true

/-- The operation was performed and not refused: the trace holds no new refusal (R266). A step that is
`performed` from `s` to `t` appended no `Refused` event. -/
def notRefused (s t : State) : Bool :=
  (t.trace.drop s.trace.length).all fun e =>
    match e with
    | .refused _ => false
    | _ => true

/-- The key line and the transmit request as a consumer tracks them from the trace (R245): `none` where
an event does not fit, a `KeyDown` while the key is down or no request is up, a `KeyUp` while it is
up, a `MoxOn` while the request is up, a `MoxOff` while it is not. -/
def keyingAfter (l : Bool × Bool) : Event → Option (Bool × Bool)
  | .keyDown => if !l.1 && l.2 then some (true, l.2) else none
  | .keyUp => if l.1 then some (false, l.2) else none
  | .moxOn => if !l.2 then some (l.1, true) else none
  | .moxOff => if l.2 && !l.1 then some (l.1, false) else none
  | .syncLost _ => some l
  | .status _ => some l
  | .mic _ => some l
  | .readyForDsp _ _ _ => some l
  | .sequenceGap _ _ => some l
  | .unknownKeyerState _ => some l
  | .refused _ => some l

/-- The same over a stretch of the trace, from the key line and the request before it. -/
def keyingOver (l : Bool × Bool) : List Event → Option (Bool × Bool)
  | [] => some l
  | e :: es =>
    match keyingAfter l e with
    | some l' => keyingOver l' es
    | none => none

/-- How many `Mic` events a trace holds. -/
def micCount (l : List Event) : Nat :=
  l.countP fun e =>
    match e with
    | .mic _ => true
    | _ => false

/-- How many `ReadyForDsp` events a trace holds. -/
def readyCount (l : List Event) : Nat :=
  l.countP fun e =>
    match e with
    | .readyForDsp _ _ _ => true
    | _ => false

end Sys2Proof.Machine
end

