-- ==== Sys2Proof/Certificates/Slice0/Obligations.lean ====
section
/-! DEFINITION. The statements for the provers. -/

open Sys2Proof Sys2Proof.Machine

/-! ### Decoding and one step -/

/-- Every instruction, presented as the encoder writes it, is decoded to itself where the selecting
register holds its row's value, for every operand (R130, R135). -/
def Obligations.DecodeInvertsEncode : Prop :=
  ∀ (x : Context) (i : Instr), paramsWf x.par = true → wellFormed x.par i = true → selects x i = true →
    decode x (encode i) = .ok i

/-- What the decoder answers is a well-formed instruction whose selector holds, and it keeps every
operand: where the operands are written out, encoding gives the presentation back (R135). -/
def Obligations.DecodedInstrIsSelectedAndWellFormed : Prop :=
  ∀ (x : Context) (r : Request) (i : Instr), decode x r = .ok i →
    wellFormed x.par i = true ∧ selects x i = true ∧ (r.explicit = true → encode i = r)

/-- Words of the opcode table, each read as its row (R135): the SYNC bytes, values of `rr`, values of
`ks`, both values of `hdr_phase`, a command kind. That a word of the table shorter than 24 bits is a
value of `rr` is the model's choice (log entry 4). -/
def Obligations.TableWordsReadAsTheirRows : Prop :=
  (∀ (x : Context) (f : Vector Byte 512) (now : Nat), x.par.sync = #v[0x7F#8, 0x7F#8, 0x7F#8] →
    f[0] = 0x7F#8 → f[1] = 0x7F#8 → f[2] = 0x7F#8 →
    decode x (.decode (.bytes f.toList) now) = .ok (.decodeOk f now)) ∧
  (∀ (x : Context) (f : Vector Byte 512) (now : Nat), x.par.sync = #v[0x7F#8, 0x7F#8, 0x7F#8] →
    f[1] = 0x00#8 → decode x (.decode (.bytes f.toList) now) = .ok (.decodeSynclost f now)) ∧
  decodeTableWord 8 0x3 = some .cc3 ∧
  (∀ x : Context, x.rr = 7#3 → decode x .ccStep = .ok .cc7) ∧
  (∀ x : Context, x.par.ksCode = defaultKsCodes → x.ks = 4#3 → decode x .keyTick = .ok .ksDashdelay) ∧
  (∀ x : Context, x.par.ksCode = defaultKsCodes → x.ks = 7#3 → decode x .keyTick = .ok .ksUnknown) ∧
  (∀ (x : Context) (o : Vector Byte 512), decode x (.txWrite (.bytes o.toList)) =
    .ok (if x.hdrPhase then .txWriteNohdr o else .txWriteHdr o)) ∧
  (∀ x : Context, decode x (.hwcmd .startWb) = .ok .hwcmdStartWb)

/-- A step performs the next presented operation: it leaves the list of those to come and the rest of
the step is `exec` of the row it decodes to. With nothing presented the block does nothing (R11). A
presentation that is no operation is refused by name (log entry 5). The list itself is the model's
(log entry 2). -/
def Obligations.StepPerformsTheNextOperation : Prop :=
  (∀ s : State, s.script = [] → step s = .next s) ∧
  (∀ (s : State) (r : Request) (rest : List Request) (i : Instr), s.script = r :: rest →
    decode (fetchContext s) r = .ok i → step s = exec i (s.withScript rest)) ∧
  (∀ (s : State) (r : Request) (rest : List Request) (why : Reject), s.script = r :: rest →
    decode (fetchContext s) r = .error why → step s = .refused (.undecodable why))

/-- Every instruction completes in every state: no operation halts the block (R11). That refusals and
exceptions are next states is read from the spec (log entry 13). -/
def Obligations.NoOperationHaltsTheBlock : Prop :=
  ∀ (i : Instr) (s : State), ∃ t, exec i s = .next t

/-- While the block is stopped, DECODE, CC_STEP, TX_WRITE, GAP_CHECK and KEY_TICK append
`Refused(NotRunning)` and change nothing else (R35, R266). -/
def Obligations.StoppedBlockRefuses : Prop :=
  ∀ (s : State) (f : Vector Byte 512) (now : Nat) (q : BitVec 32), s.run = false →
    ∀ i ∈ [Instr.decodeOk f now, .decodeSynclost f now, .txWriteHdr f, .txWriteNohdr f, .gapCheck q,
      .cc0, .cc1, .cc2, .cc3, .cc4, .cc5, .cc6, .cc7, .ksCheck, .ksSenddot, .ksSenddash, .ksDotdelay,
      .ksDashdelay, .ksLetterspace, .ksExitloop, .ksUnknown],
      exec i s = .next { s with trace := s.trace ++ [.refused .notRunning] }

/-! ### Invariants and whole-machine rules -/

/-- The invariant holds after power-on reset. That `sync_rep_time` and `last_seen` are 0 there is the model's
choice (log entry 6). -/
def Obligations.InvariantHoldsAtReset : Prop := Inv State.reset

/-- Every step from a state with the invariant leads to one with it: legal configuration, canonical
sample buffers within the batch, a legal keyer state, the latch invariant of R237, the counter ranges
of R236 (e) and R58, and a stopped block at its reset values (R291; those of `sync_rep_time` and
`last_seen` are the model's, log entry 6). -/
def Obligations.InvariantKeptByEveryStep : Prop :=
  ∀ s t : State, Inv s → step s = .next t → Inv t

/-- From reset, whatever operations are presented and after however many of them, no unrecognised keyer
state has been reported; and no step from any state with the invariant reports one (R265). -/
def Obligations.UnknownKeyerStateNeverRaised : Prop :=
  (∀ (l : List Request) (n : Nat) (t : State), core.run n (State.reset.withScript l) = .next t →
    ∀ x : BitVec 3, Event.unknownKeyerState x ∉ t.trace) ∧
  ∀ s t : State, Inv s → step s = .next t →
    ∃ es : List Event, t.trace = s.trace ++ es ∧ ∀ x : BitVec 3, Event.unknownKeyerState x ∉ es

/-- The parameters are fixed for the life of the block (R6), and the event trace and the returned
bytes only grow at their end (R12, log entry 3). -/
def Obligations.ParametersFixedAndOutputsOnlyGrow : Prop :=
  ∀ s t : State, step s = .next t →
    t.par = s.par ∧ (∃ es, t.trace = s.trace ++ es) ∧ (∃ rs, t.results = s.results ++ rs)

/-- Each unit's registers have their one writer, whatever the state (R21 to R27, R33, R35, R58): the
frame of every instruction, unit by unit. START and STOP write every unit. The sample cells are in
`dec`. No instruction writes the parameters or the operations still to come. -/
def Obligations.EachUnitHasItsWriters : Prop :=
  ∀ (i : Instr) (s t : State), exec i s = .next t →
    t.par = s.par ∧ t.script = s.script ∧
    (encode i ≠ .start → encode i ≠ .stop →
      t.run = s.run ∧ t.session = s.session ∧
      (encode i ≠ .keyTick → t.kr = s.kr) ∧
      (encode i ≠ .ccStep → t.ccg = s.ccg) ∧
      ((∀ f now, i ≠ .decodeOk f now) → (∀ f now, i ≠ .decodeSynclost f now) → t.dec = s.dec) ∧
      ((∀ o, i ≠ .txWriteHdr o) → (∀ o, i ≠ .txWriteNohdr o) → (∀ q, i ≠ .gapCheck q) → t.sq = s.sq) ∧
      ((∀ f now, i ≠ .decodeOk f now) → (∀ reg v, i ≠ .cfgWrite reg v) → t.paddle = s.paddle)) ∧
    ((∀ reg v, i ≠ .cfgWrite reg v) →
      t.cfg = s.cfg ∧ t.kcfg = s.kcfg ∧ (i ≠ .cc1 → t.tp = s.tp) ∧ (i ≠ .cc2 → t.rx = s.rx)) ∧
    ((∀ f p, i ≠ .encode f p) → (∀ o, i ≠ .txWriteHdr o) → (∀ o, i ≠ .txWriteNohdr o) →
      i ≠ .hwcmdStop → i ≠ .hwcmdStart → i ≠ .hwcmdStartWb → t.results = s.results)

/-! ### DEC -/

/-- A sync-lost frame is dropped; SyncLost is reported, and its time recorded, exactly when none has
been reported yet or `now` is more than `SYNC_REPORT_GAP_MS` after the last report (R141, R142). -/
def Obligations.SyncLostIsRateLimited : Prop :=
  ∀ (f : Vector Byte 512) (now : Nat) (s : State), s.run = true →
    exec (.decodeSynclost f now) s = .next
      (if s.dec.syncRepValid = false ∨ s.dec.syncRepTime + s.par.syncReportGapMs < now then
        { s with dec := { s.dec with syncRepValid := true, syncRepTime := now },
                 trace := s.trace ++ [.syncLost now] }
       else s)

/-- A frame whose SYNC matched puts bytes 3..7 into `STATUS` and the paddle bits of the first, where
`STATUS_LAYOUT` has them, into `PADDLE`; the first event is `Status`; nothing but DEC's registers,
`PADDLE` and the trace changes, and of those not the SyncLost limiter (R143, R144). -/
def Obligations.DecodeStoresStatusAndPaddles : Prop :=
  ∀ (f : Vector Byte 512) (now : Nat) (s : State), s.run = true →
    ∃ t es, exec (.decodeOk f now) s = .next t ∧
      t.dec.status = #v[f[3], f[4], f[5], f[6], f[7]] ∧
      t.paddle = ⟨f[3].getLsbD s.par.statusLayout.ptt, f[3].getLsbD s.par.statusLayout.dash,
        f[3].getLsbD s.par.statusLayout.dot⟩ ∧
      t.trace = s.trace ++ .status #v[f[3], f[4], f[5], f[6], f[7]] :: es ∧
      t.dec.syncRepValid = s.dec.syncRepValid ∧ t.dec.syncRepTime = s.dec.syncRepTime ∧
      t = { s with dec := t.dec, paddle := t.paddle, trace := t.trace }

/-- Period `p` of an accepted frame goes to cell `(idx + p) mod BATCH`: for each receiver below
`CFG.nrx` its I and Q samples, and the mic sample; every other cell of every buffer, among them all
of the receivers from `CFG.nrx` on, reads as before (R146 to R150). -/
def Obligations.DecodeStoresSamples : Prop :=
  ∀ (f : Vector Byte 512) (now : Nat) (s : State), s.run = true → s.dec.idx < s.par.batch →
    s.cfg.nrx.toNat ≤ 20 → 504 / (6 * s.cfg.nrx.toNat + 2) ≤ s.par.batch →
    ∃ t, exec (.decodeOk f now) s = .next t ∧
      (∀ p < 504 / (6 * s.cfg.nrx.toNat + 2), ∀ r < s.cfg.nrx.toNat,
        iCell t r ((s.dec.idx + p) % s.par.batch) =
          some ((sext 24 (memRead f (8 + p * (6 * s.cfg.nrx.toNat + 2) + 6 * r) 3) : Rat) / 8388607) ∧
        qCell t r ((s.dec.idx + p) % s.par.batch) =
          some ((sext 24 (memRead f (8 + p * (6 * s.cfg.nrx.toNat + 2) + 6 * r + 3) 3) : Rat) / 8388607)) ∧
      (∀ p < 504 / (6 * s.cfg.nrx.toNat + 2),
        micCell t ((s.dec.idx + p) % s.par.batch) =
          some ((sext 16 (memRead f (8 + p * (6 * s.cfg.nrx.toNat + 2) + 6 * s.cfg.nrx.toNat) 2) : Rat) *
            s.cfg.micGain)) ∧
      (∀ r a : Nat, (s.cfg.nrx.toNat ≤ r ∨
          ∀ p < 504 / (6 * s.cfg.nrx.toNat + 2), a ≠ (s.dec.idx + p) % s.par.batch) →
        iCell t r a = iCell s r a ∧ qCell t r a = qCell s r a) ∧
      (∀ a : Nat, (∀ p < 504 / (6 * s.cfg.nrx.toNat + 2), a ≠ (s.dec.idx + p) % s.par.batch) →
        micCell t a = micCell s a)

/-- The whole event list of an accepted frame whose periods fit a batch: `Status`, then one `Mic` a
period; where the batch fills, after the period that fills it, one `ReadyForDsp` a receiver, in
ascending order, each with the whole buffers: the cells from `idx` on as this frame stored them, the
earlier ones as they were, a cell without a value free (R150, R272 (b), log entry 7). -/
def Obligations.HandOffCarriesTheFullBuffers : Prop :=
  ∀ (f : Vector Byte 512) (now : Nat) (s : State), s.run = true → s.dec.idx < s.par.batch →
    s.cfg.nrx.toNat ≤ 20 → 504 / (6 * s.cfg.nrx.toNat + 2) ≤ s.par.batch →
    let n := s.cfg.nrx.toNat
    let count := 504 / (6 * n + 2)
    let full := s.par.batch - s.dec.idx
    let mic := fun p : Nat =>
      Event.mic ((sext 16 (memRead f (8 + p * (6 * n + 2) + 6 * n) 2) : Rat) * s.cfg.micGain)
    let sample := fun p at' : Nat => (sext 24 (memRead f (8 + p * (6 * n + 2) + at') 3) : Rat) / 8388607
    let ready := fun r : Nat => Event.readyForDsp r
      ((List.range s.par.batch).map fun a => if s.dec.idx ≤ a then sample (a - s.dec.idx) (6 * r)
        else (iCell s r a).getD (Config.unwrittenCell s.session 0 r a))
      ((List.range s.par.batch).map fun a => if s.dec.idx ≤ a then sample (a - s.dec.idx) (6 * r + 3)
        else (qCell s r a).getD (Config.unwrittenCell s.session 1 r a))
    ∃ t, exec (.decodeOk f now) s = .next t ∧
      (count < full → t.trace = s.trace ++ .status #v[f[3], f[4], f[5], f[6], f[7]] ::
        (List.range count).map mic) ∧
      (full ≤ count → t.trace = s.trace ++ .status #v[f[3], f[4], f[5], f[6], f[7]] ::
        ((List.range full).map mic ++ (List.range n).map ready ++ ((List.range count).drop full).map mic))

/-- The counting law, over any number of accepted frames in succession: with `P` periods a frame, the
index, the `Mic` events and the hand-offs are those of R151. A sync-lost frame counts for nothing. -/
def Obligations.CountingLawOverFrames : Prop :=
  (∀ (f : Vector Byte 512) (now : Nat) (s : State), ∃ t, exec (.decodeSynclost f now) s = .next t ∧
    t.dec.idx = s.dec.idx ∧ micCount t.trace = micCount s.trace ∧ readyCount t.trace = readyCount s.trace) ∧
  ∀ (fs : List (Vector Byte 512 × Nat)) (s : State), s.run = true → s.dec.idx < s.par.batch →
    (∀ x ∈ fs, syncMatches s.par x.1 = true) →
    s.script = fs.map (fun x => Request.decode (.bytes x.1.toList) x.2) →
    let n := s.cfg.nrx.toNat
    let periods := fs.length * (504 / (6 * n + 2))
    ∃ t, core.run fs.length s = .next t ∧
      t.dec.idx = (s.dec.idx + periods) % s.par.batch ∧
      micCount t.trace = micCount s.trace + periods ∧
      readyCount t.trace = readyCount s.trace + n * ((s.dec.idx + periods) / s.par.batch)

/-- The bytes DECODE reads lie inside the frame for every receiver count, and table T-N is the formula:
`P(N)`, `U(N)`, `W(N)` and `end` for each N from 1 to 20 (R71, R76, R145). -/
def Obligations.PeriodTableAndReadRange : Prop :=
  (∀ n p r : Nat, p < periodCount n → r < n →
    periodBase n p + 6 * r + 5 < 512 ∧ periodBase n p + 6 * n + 1 < 512) ∧
  (List.range' 1 20).map (fun n =>
      (periodBytes n, periodCount n, periodCount n * periodBytes n, 504 - periodCount n * periodBytes n,
        periodBase n (periodCount n))) =
    [(8, 63, 504, 0, 512), (14, 36, 504, 0, 512), (20, 25, 500, 4, 508), (26, 19, 494, 10, 502),
     (32, 15, 480, 24, 488), (38, 13, 494, 10, 502), (44, 11, 484, 20, 492), (50, 10, 500, 4, 508),
     (56, 9, 504, 0, 512), (62, 8, 496, 8, 504), (68, 7, 476, 28, 484), (74, 6, 444, 60, 452),
     (80, 6, 480, 24, 488), (86, 5, 430, 74, 438), (92, 5, 460, 44, 468), (98, 5, 490, 14, 498),
     (104, 4, 416, 88, 424), (110, 4, 440, 64, 448), (116, 4, 464, 40, 472), (122, 4, 488, 16, 496)]

/-- A 24-bit sample is the big-endian two's-complement integer of its three bytes over 8388607, and a
mic sample the 16-bit one times the gain (R105 (a), (b), R148, R149), each at every index that leaves
room for its own bytes, the last of the frame included: no byte is dropped, and the one code below -1
is not clamped. -/
def Obligations.SampleValuesAreExact : Prop :=
  (∀ (f : Vector Byte 512) (a : Nat) (h : a + 2 < 512),
    let b0 := f[a].toNat
    let b1 := f[a + 1].toNat
    let b2 := f[a + 2].toNat
    sampleValue f a = ((b0 * 65536 + b1 * 256 + b2 : Int) - (if b0 < 128 then 0 else 16777216) : Int) / (8388607 : Rat) ∧
    (b0 = 128 → b1 = 0 → b2 = 0 → sampleValue f a < -1)) ∧
  ∀ (f : Vector Byte 512) (g : Rat) (a : Nat) (h : a + 1 < 512),
    let b0 := f[a].toNat
    let b1 := f[a + 1].toNat
    micValue f g a = (((b0 * 256 + b1 : Int) - (if b0 < 128 then 0 else 65536) : Int) : Rat) * g

/-! ### ENC -/

/-- ENCODE returns SYNC, the five control bytes and the payload, in every state, running or not, and
changes nothing else (R170, R172). -/
def Obligations.EncodeReturnsTheHalfFrame : Prop :=
  ∀ (x : Vector Byte 5) (p : Vector Byte 504) (s : State),
    ∃ o : Vector Byte 512, o.toList = s.par.sync.toList ++ x.toList ++ p.toList ∧
      exec (.encode x p) s = .next { s with results := s.results ++ [.frame o] }

/-- The round trip of R171: bytes 3..7 of what ENCODE built are the five bytes, DECODE accepts it, and
`STATUS` is then the five bytes. -/
def Obligations.EncodedFrameDecodesToItsControlBytes : Prop :=
  ∀ (x : Vector Byte 5) (p : Vector Byte 504) (now : Nat) (s : State) (rest : List Request),
    s.run = true → s.script = .encode (.bytes x.toList) p.toList :: .decode .last now :: rest →
    (∃ o : Vector Byte 512, exec (.encode x p) s = .next { s with results := s.results ++ [.frame o] } ∧
      #v[o[3], o[4], o[5], o[6], o[7]] = x) ∧
    ∃ t, core.run 2 s = .next t ∧ t.dec.status = x ∧ t.script = rest ∧ notRefused s t = true ∧
      ∃ es, t.trace = s.trace ++ .status x :: es

/-! ### SEQ -/

/-- TX_WRITE with `hdr_phase` 0 returns signature, `seq` big-endian and the half-frame, and counts;
with 1 it returns the half-frame alone; each toggles the phase; while stopped both are refused and
return nothing; START of a stopped block leaves the phase at 0 (R74, R175, R176). -/
def Obligations.TxWriteAlternatesTheHeader : Prop :=
  ∀ (o : Vector Byte 512) (s : State),
    (s.run = true → exec (.txWriteHdr o) s = .next
      { s with sq := { s.sq with seq := s.sq.seq + 1#32, hdrPhase := true },
               results := s.results ++ [.datagram (s.par.devSignature.toList ++
                 [s.sq.seq.extractLsb' 24 8, s.sq.seq.extractLsb' 16 8, s.sq.seq.extractLsb' 8 8,
                  s.sq.seq.extractLsb' 0 8] ++ o.toList)] }) ∧
    (s.run = true → exec (.txWriteNohdr o) s = .next
      { s with sq := { s.sq with hdrPhase := false }, results := s.results ++ [.datagram o.toList] }) ∧
    (s.run = false → exec (.txWriteHdr o) s = .next { s with trace := s.trace ++ [.refused .notRunning] } ∧
      exec (.txWriteNohdr o) s = .next { s with trace := s.trace ++ [.refused .notRunning] }) ∧
    (s.run = false → ∃ t, exec .start s = .next t ∧ t.run = true ∧ t.sq.hdrPhase = false)

/-- The sequence law of R177: from START of a stopped block, the writes numbered 0, 2, 4, ... bear the
header with the numbers 0, 1, 2, ... modulo 2^32, and the others are raw; from any running state every
second write bears it, the first one exactly where the phase is 0, counting on from `seq`. A refused
write changes nothing but the trace. -/
def Obligations.SequenceNumbersAreConsecutive : Prop :=
  (∀ (os : List (Vector Byte 512)) (s : State), s.run = false →
    s.script = .start :: os.map (fun o => Request.txWrite (.bytes o.toList)) →
    ∃ t, core.run (os.length + 1) s = .next t ∧
      t.results = s.results ++ os.mapIdx (fun k o => Result.datagram
        (if k % 2 = 0 then datagramHeader s.par (BitVec.ofNat 32 (k / 2)) ++ o.toList else o.toList))) ∧
  (∀ (o : Vector Byte 512) (s : State), s.run = false →
    exec (.txWriteHdr o) s = .next { s with trace := s.trace ++ [.refused .notRunning] } ∧
    exec (.txWriteNohdr o) s = .next { s with trace := s.trace ++ [.refused .notRunning] }) ∧
  ∀ (os : List (Vector Byte 512)) (s : State), s.run = true →
    s.script = os.map (fun o => Request.txWrite (.bytes o.toList)) →
    let first := if s.sq.hdrPhase then 1 else 0
    ∃ t, core.run os.length s = .next t ∧
      t.results = s.results ++ os.mapIdx (fun k o => Result.datagram
        (if k % 2 = first then datagramHeader s.par (s.sq.seq + BitVec.ofNat 32 (k / 2)) ++ o.toList
         else o.toList)) ∧
      t.sq.seq = s.sq.seq + BitVec.ofNat 32 ((os.length + 1 - first) / 2) ∧
      t.sq.hdrPhase = ((first + os.length) % 2 == 1)

/-- GAP_CHECK records the number it is given, and reports a gap exactly when a number was seen before
and this one is not its successor modulo 2^32; while stopped it is refused (R178). -/
def Obligations.GapCheckReportsAndFollows : Prop :=
  ∀ (q : BitVec 32) (s : State),
    (s.run = true → exec (.gapCheck q) s = .next
      { s with sq := { s.sq with lastSeen := q, lastSeenValid := true },
               trace := s.trace ++ (if s.sq.lastSeenValid = true ∧ q ≠ s.sq.lastSeen + 1#32 then
                 [.sequenceGap (s.sq.lastSeen + 1#32) q] else []) }) ∧
    (s.run = false → exec (.gapCheck q) s = .next { s with trace := s.trace ++ [.refused .notRunning] })

/-- A stream of numbers that each follow the one before, the first any number that does not contradict
the tracker, reports no gap, across the wrap too (R178, R264). -/
def Obligations.ConsecutiveNumbersGiveNoGap : Prop :=
  ∀ (n : Nat) (q : BitVec 32) (s : State), s.run = true →
    (s.sq.lastSeenValid = false ∨ q = s.sq.lastSeen + 1#32) →
    s.script = (List.range n).map (fun k => Request.gapCheck (q + BitVec.ofNat 32 k).toNat) →
    ∃ t, core.run n s = .next t ∧ t.trace = s.trace ∧
      (0 < n → t.sq.lastSeenValid = true ∧ t.sq.lastSeen + 1#32 = q + BitVec.ofNat 32 n)

/-- HWCMD returns `00`, `01` or `03` by kind, in every state, and changes nothing else (R180). -/
def Obligations.HwcmdReturnsItsByte : Prop :=
  ∀ s : State,
    exec .hwcmdStop s = .next { s with results := s.results ++ [.command 0x00#8] } ∧
    exec .hwcmdStart s = .next { s with results := s.results ++ [.command 0x01#8] } ∧
    exec .hwcmdStartWb s = .next { s with results := s.results ++ [.command 0x03#8] }

/-! ### START, STOP, CFG_WRITE -/

/-- START while stopped puts every non-configuration register at its reset value, loads `force_all`
from `CFG.nrx` and runs; while running it does nothing; it emits no event (R291). The reset values of
`sync_rep_time` and `last_seen` are the model's (log entry 6). -/
def Obligations.StartLoadsTheCountdown : Prop :=
  ∀ s : State,
    (s.run = true → exec .start s = .next s) ∧
    (s.run = false → exec .start s = .next
      { s with run := true, paddle := ⟨false, false, false⟩, dec := DecRegs.reset,
               ccg := { CcgRegs.reset s.par with forceAll := s.cfg.nrx }, sq := SeqRegs.reset,
               kr := KeyRegs.reset s.par })

/-- STOP puts every non-configuration register at its reset value, silently, and leaves configuration
alone; a cell of a buffer holds no value after it; stopping a stopped block changes no register that
is at its reset value (R292, R60). The reset value of `sync_rep_time` and `last_seen` is the model's
(log entry 6), and so is the counter `session` (log entry 7). -/
def Obligations.StopResetsEveryUnit : Prop :=
  ∀ s : State, ∃ t, exec .stop s = .next t ∧
    t = { s with run := false, paddle := ⟨false, false, false⟩, dec := t.dec,
                 ccg := ⟨s.par.ctrlDefault, 0#3, 0#5, #v[0#8, 0#8, 0#8, 0#8]⟩,
                 sq := t.sq,
                 kr := ⟨s.par.ksCode.check, 0#16, 0#16, false, false, false, false, false, false, false, false⟩,
                 session := t.session } ∧
    t.dec.status = #v[0#8, 0#8, 0#8, 0#8, 0#8] ∧ t.dec.idx = 0 ∧ t.dec.syncRepValid = false ∧
    t.sq.seq = 0#32 ∧ t.sq.hdrPhase = false ∧ t.sq.lastSeenValid = false ∧
    (∀ r a : Nat, iCell t r a = none ∧ qCell t r a = none ∧ micCell t a = none)

/-- CFG_WRITE of the registers with a range: a whole number in it is written, any other whole number
is refused with `IllegalValue` and nothing else changes (R40, R42, R47, R266). -/
def Obligations.CfgWriteRangedRegisters : Prop :=
  ∀ (v : Nat) (s : State),
    let refused := Host.Outcome.next (φ := Fault) (ρ := Refusal)
      { s with trace := s.trace ++ [.refused .illegalValue] }
    (exec (.cfgWrite .nrx v) s =
      if 1 ≤ v ∧ v ≤ 20 then .next { s with cfg := { s.cfg with nrx := BitVec.ofNat 5 v } } else refused) ∧
    (exec (.cfgWrite .speed v) s =
      if 1 ≤ v ∧ v ≤ 60 then .next { s with kcfg := { s.kcfg with speed := BitVec.ofNat 6 v } } else refused) ∧
    (exec (.cfgWrite .weight v) s =
      if v ≤ 100 then .next { s with kcfg := { s.kcfg with weight := BitVec.ofNat 7 v } } else refused) ∧
    (exec (.cfgWrite .mode v) s =
      if v ≤ 2 then .next { s with kcfg := { s.kcfg with mode := BitVec.ofNat 2 v } } else refused) ∧
    (exec (.cfgWrite .hang v) s =
      if v ≤ 1023 then .next { s with kcfg := { s.kcfg with hang := BitVec.ofNat 10 v } } else refused) ∧
    (exec (.cfgWrite .spacing v) s =
      if v ≤ 1 then .next { s with kcfg := { s.kcfg with spacing := v == 1 } } else refused) ∧
    (exec (.cfgWrite .reversed v) s =
      if v ≤ 1 then .next { s with kcfg := { s.kcfg with reversed := v == 1 } } else refused)

/-- CFG_WRITE of the transmit parameters other than the frequency: a whole number of the register's
width is written, a wider one is refused and nothing else changes (R43, R44, R45, R47). That a band
is any whole number is the model's choice (log entry 10). -/
def Obligations.CfgWriteTransmitParameters : Prop :=
  ∀ (v : Nat) (s : State),
    let refused := Host.Outcome.next (φ := Fault) (ρ := Refusal)
      { s with trace := s.trace ++ [.refused .illegalValue] }
    let wrote := fun tp : Tp => Host.Outcome.next (φ := Fault) (ρ := Refusal) { s with tp := tp }
    (exec (.cfgWrite .modeBit v) s = if v < 2 then wrote { s.tp with modeBit := v == 1 } else refused) ∧
    (exec (.cfgWrite .sampleRate v) s =
      if v < 4 then wrote { s.tp with sampleRate := BitVec.ofNat 2 v } else refused) ∧
    (exec (.cfgWrite .clockSrc v) s =
      if v < 8 then wrote { s.tp with clockSrc := BitVec.ofNat 3 v } else refused) ∧
    (exec (.cfgWrite .outClass v) s =
      if v < 128 then wrote { s.tp with outClass := BitVec.ofNat 7 v } else refused) ∧
    (exec (.cfgWrite .duplex v) s = if v < 2 then wrote { s.tp with duplex := v == 1 } else refused) ∧
    (exec (.cfgWrite .devPresent v) s =
      if v < 4 then wrote { s.tp with devPresent := BitVec.ofNat 2 v } else refused) ∧
    (exec (.cfgWrite .atten v) s =
      if v < 4 then wrote { s.tp with atten := BitVec.ofNat 2 v } else refused) ∧
    (exec (.cfgWrite .band v) s = wrote { s.tp with band := v }) ∧
    (exec (.cfgWrite .mox v) s = if v < 2 then wrote { s.tp with mox := v == 1 } else refused) ∧
    (exec (.cfgWrite .ptt v) s = if v < 2 then wrote { s.tp with ptt := v == 1 } else refused) ∧
    (exec (.cfgWrite .dspCw v) s = if v < 2 then wrote { s.tp with dspCw := v == 1 } else refused) ∧
    (exec (.cfgWrite .internalCw v) s =
      if v < 2 then wrote { s.tp with internalCw := v == 1 } else refused) ∧
    (exec (.cfgWrite .drive v) s =
      if v < 256 then wrote { s.tp with drive := BitVec.ofNat 8 v } else refused) ∧
    (exec (.cfgWrite .sidetoneVol v) s =
      if v < 128 then wrote { s.tp with sidetoneVol := BitVec.ofNat 7 v } else refused) ∧
    (exec (.cfgWrite .pttDelay v) s =
      if v < 256 then wrote { s.tp with pttDelay := BitVec.ofNat 8 v } else refused) ∧
    (exec (.cfgWrite .sidetoneFreq v) s =
      if v < 4096 then wrote { s.tp with sidetoneFreq := BitVec.ofNat 12 v } else refused)

/-- CFG_WRITE of a frequency writes it and sets its change flag exactly when the value differs from
the one held; the flag is never cleared (R34, R47). -/
def Obligations.CfgWriteFrequencySetsItsFlag : Prop :=
  ∀ (v : BitVec 32) (s : State),
    exec (.cfgWrite .txFreq v.toNat) s = .next { s with tp := { s.tp with
      txFreq := v, txFreqChanged := (if v = s.tp.txFreq then s.tp.txFreqChanged else true) } } ∧
    ∀ (r : Nat) (h : r < 20), exec (.cfgWrite (.rxFreq r) v.toNat) s = .next
      (s.withRx (s.rx.set r ⟨v, if v = s.rx[r].freq then s.rx[r].freqChanged else true, s.rx[r].adc⟩))

/-- CFG_WRITE of the paddle bits, the mic gain and a receiver's other registers; that
`RX[r].freq_changed` can be written is the model's reading (log entry 11) (R23, R41, R46, R47). -/
def Obligations.CfgWritePaddlesGainAndReceivers : Prop :=
  ∀ (v : Nat) (g : Rat) (s : State),
    let refused := Host.Outcome.next (φ := Fault) (ρ := Refusal)
      { s with trace := s.trace ++ [.refused .illegalValue] }
    (exec (.cfgWrite .paddlePtt v) s =
      if v < 2 then .next { s with paddle := { s.paddle with ptt := v == 1 } } else refused) ∧
    (exec (.cfgWrite .paddleDash v) s =
      if v < 2 then .next { s with paddle := { s.paddle with dash := v == 1 } } else refused) ∧
    (exec (.cfgWrite .paddleDot v) s =
      if v < 2 then .next { s with paddle := { s.paddle with dot := v == 1 } } else refused) ∧
    (exec (.cfgWrite .micGain g) s = .next { s with cfg := { s.cfg with micGain := g } }) ∧
    (∀ (r : Nat) (h : r < 20), exec (.cfgWrite (.rxAdc r) v) s =
      if v < 4 then .next (s.withRx (s.rx.set r ⟨s.rx[r].freq, s.rx[r].freqChanged, BitVec.ofNat 2 v⟩))
      else refused) ∧
    (∀ (r : Nat) (h : r < 20), exec (.cfgWrite (.rxFreqChanged r) v) s =
      if v < 2 then .next (s.withRx (s.rx.set r ⟨s.rx[r].freq, v == 1, s.rx[r].adc⟩)) else refused)

/-- CFG_WRITE refuses, with no other change, a value that is no whole number (but for the mic gain),
a frequency wider than its register, a receiver that does not exist, and a name that is no
configuration register (R47, R266). Two of these are the model's choice: that `TP.band`, of an opaque
type, refuses fractions and negatives (log entry 10, DESIGN CHOICE), and that a receiver beyond the
twentieth is refused as a register that does not exist (log entry 16, DESIGN CHOICE). Which names are
registers is an inference from the spec (log entry 11, DEDUCED). -/
def Obligations.CfgWriteRefusesWhatIsIllegal : Prop :=
  ∀ (reg : CfgReg) (v : Rat) (s : State),
    (((v.den ≠ 1 ∨ v.num < 0) ∧ reg ≠ .micGain) ∨
      (reg = .txFreq ∧ 2 ^ 32 ≤ v.num) ∨ (∃ r, reg = .rxFreq r ∧ 2 ^ 32 ≤ v.num) ∨
      (∃ r, 20 ≤ r ∧ (reg = .rxFreq r ∨ reg = .rxAdc r ∨ reg = .rxFreqChanged r)) ∨
      (∃ name, reg = .notConfig name)) →
    exec (.cfgWrite reg v) s = .next { s with trace := s.trace ++ [.refused .illegalValue] }

/-! ### CCG -/

/-- CC0 under the default layout: the general-configuration bytes of R195, MOX in bit 0 of the first;
then state 1. The antenna bits are whatever `ANT_ROUTE` gives, free where no value is supplied: that is
the model's choice (log entry 9, DESIGN CHOICE). Under any layout, a receiver count its field cannot
express is refused with no other change, and any other count is not refused (R197). -/
def Obligations.Cc0SendsGeneralConfiguration : Prop :=
  ∀ s : State, s.run = true →
    (s.par.layout = defaultLayout → s.cfg.nrx.toNat ≤ 2 ^ s.par.nrxWidth →
      exec .cc0 s = .next { s with ccg := { s.ccg with
      cc := #v[if moxBit s then 0x01#8 else 0x00#8,
        s.tp.sampleRate.setWidth 8 ||| s.tp.clockSrc.setWidth 8 <<< 2 ||| s.tp.devPresent.setWidth 8 <<< 5,
        (if s.tp.modeBit then 1#8 else 0#8) ||| s.tp.outClass.setWidth 8 <<< 1,
        s.tp.atten.setWidth 8 ||| ((antBits s).extractLsb' 2 3).setWidth 8 <<< 5,
        ((antBits s).extractLsb' 0 2).setWidth 8 ||| (if s.tp.duplex then 1#8 else 0#8) <<< 2 |||
          (s.cfg.nrx - 1#5).setWidth 8 <<< 3],
      rr := 1#3 } }) ∧
    (2 ^ s.par.nrxWidth < s.cfg.nrx.toNat →
      exec .cc0 s = .next { s with trace := s.trace ++ [.refused .cfgRange] }) ∧
    (s.cfg.nrx.toNat ≤ 2 ^ s.par.nrxWidth → ∃ t, exec .cc0 s = .next t ∧ t.trace = s.trace)

/-- CC1 under the default layout: the TX frequency big-endian in C1 to C4, its change flag cleared;
then state 2 (R198). -/
def Obligations.Cc1SendsTheTxFrequency : Prop :=
  ∀ s : State, s.run = true → s.par.layout = defaultLayout →
    exec .cc1 s = .next { s with
      tp := { s.tp with txFreqChanged := false },
      ccg := { s.ccg with
        cc := #v[if moxBit s then 0x03#8 else 0x02#8, s.tp.txFreq.extractLsb' 24 8,
          s.tp.txFreq.extractLsb' 16 8, s.tp.txFreq.extractLsb' 8 8, s.tp.txFreq.extractLsb' 0 8],
        rr := 2#3 } }

/-- CC2 selects receiver `N - min(force_all, N)` while the countdown runs, else the least changed
receiver below `N`, else none (R199). -/
def Obligations.Cc2SelectsTheReceiver : Prop :=
  ∀ s : State,
    (0#5 < s.ccg.forceAll →
      rxSelected s = some (s.cfg.nrx.toNat - min s.ccg.forceAll.toNat s.cfg.nrx.toNat)) ∧
    (s.ccg.forceAll = 0#5 → ∀ r : Nat, rxSelected s = some r ↔
      (r < s.cfg.nrx.toNat ∧ (rxAt s r).freqChanged = true ∧
        ∀ k < r, (rxAt s k).freqChanged = false)) ∧
    (s.ccg.forceAll = 0#5 → (rxSelected s = none ↔
      ∀ r < s.cfg.nrx.toNat, (rxAt s r).freqChanged = false))

/-- CC2 under the default layout: the selected receiver's command byte and frequency, its change flag
cleared; `CTRL_DEFAULT` with the MOX bit when none is selected; the countdown goes down by one; then
state 3. Under any layout, a selected receiver without a command byte is refused and nothing else
changes, and a visit that selects no receiver is not refused (R199, R200). -/
def Obligations.Cc2SendsTheSelectedReceiver : Prop :=
  ∀ s : State, s.run = true →
    let forceAll := if s.ccg.forceAll = 0#5 then 0#5 else s.ccg.forceAll - 1#5
    let adjusted := fun x : Byte => if moxBit s then x ||| 1#8 else x &&& 0xFE#8
    (s.par.layout = defaultLayout → rxSelected s = none → exec .cc2 s = .next { s with ccg := { s.ccg with
      cc := #v[adjusted s.par.ctrlDefault[0], s.par.ctrlDefault[1], s.par.ctrlDefault[2],
        s.par.ctrlDefault[3], s.par.ctrlDefault[4]],
      forceAll := forceAll, rr := 3#3 } }) ∧
    (∀ (r : Nat) (h : r < 20) (x : Byte), s.par.layout = defaultLayout → rxSelected s = some r →
        s.par.rxfreqC0[r] = some x →
      exec .cc2 s = .next { s with
        rx := s.rx.set r ⟨s.rx[r].freq, false, s.rx[r].adc⟩,
        ccg := { s.ccg with
          cc := #v[adjusted x, s.rx[r].freq.extractLsb' 24 8, s.rx[r].freq.extractLsb' 16 8,
            s.rx[r].freq.extractLsb' 8 8, s.rx[r].freq.extractLsb' 0 8],
          forceAll := forceAll, rr := 3#3 } }) ∧
    (∀ (r : Nat) (h : r < 20), rxSelected s = some r → s.par.rxfreqC0[r] = none →
      exec .cc2 s = .next { s with trace := s.trace ++ [.refused .cfgRange] }) ∧
    (rxSelected s = none → ∃ t, exec .cc2 s = .next t ∧ t.trace = s.trace)

/-- CC3 under the default layout: the drive level always, the filter mask only while transmitting;
the routing bytes go to the cache and state 4 is next exactly when they differ from it (R202). -/
def Obligations.Cc3SendsDriveAndFilter : Prop :=
  ∀ s : State, s.run = true → s.par.layout = defaultLayout →
    exec .cc3 s = .next { s with ccg := { s.ccg with
      cc := #v[if moxBit s then 0x13#8 else 0x12#8, s.tp.drive, 0x00#8, 0x00#8,
        if s.tp.mox || s.tp.ptt then (lpfMask s.par.lpf s.tp.txFreq).setWidth 8 else 0x00#8],
      adcCache := route s,
      rr := if route s = s.ccg.adcCache then 5#3 else 4#3 } }

/-- The routing bytes hold two bits for each active receiver below 16, four receivers a byte, and zero
for every other (R115). -/
def Obligations.RouteBytesPackTheAdcFields : Prop :=
  ∀ (s : State) (k j : Nat) (_ : k < 4) (_ : j < 4),
    (routeByte s k).extractLsb' (2 * j) 2 =
      if 4 * k + j < s.cfg.nrx.toNat ∧ 4 * k + j < 16 then (rxAt s (4 * k + j)).adc else 0#2

/-- The default filter table: strict thresholds from the top, and exactly one bit of the mask set for
every frequency (R203). -/
def Obligations.LpfTableThresholds : Prop :=
  ∀ f : BitVec 32,
    lpfMask defaultLpf f =
      (if 35600000 < f.toNat then 0x10#7 else if 24000000 < f.toNat then 0x20#7
       else if 16500000 < f.toNat then 0x40#7 else if 8000000 < f.toNat then 0x01#7
       else if 5000000 < f.toNat then 0x02#7 else if 2500000 < f.toNat then 0x04#7 else 0x08#7) ∧
    ∃ b < 7, lpfMask defaultLpf f = 1#7 <<< b

/-- CC4 to CC7 under the default layout, each with its next state (R205, R206, R207, R208): the routing
cache; the gated keyer enable with volume and delay; the hang time and sidetone frequency; the
keyer settings. -/
def Obligations.Cc4ToCc7SendTheirFields : Prop :=
  ∀ s : State, s.run = true → s.par.layout = defaultLayout →
    exec .cc4 s = .next { s with ccg := { s.ccg with
      cc := #v[if moxBit s then 0x1D#8 else 0x1C#8, s.ccg.adcCache[0], s.ccg.adcCache[1],
        s.ccg.adcCache[2], s.ccg.adcCache[3]], rr := 5#3 } } ∧
    exec .cc5 s = .next { s with ccg := { s.ccg with
      cc := #v[if moxBit s then 0x1F#8 else 0x1E#8,
        if s.tp.dspCw && s.tp.internalCw && !(s.tp.mox || s.tp.ptt) then 0x01#8 else 0x00#8,
        s.tp.sidetoneVol.setWidth 8, s.tp.pttDelay, 0x00#8], rr := 6#3 } } ∧
    exec .cc6 s = .next { s with ccg := { s.ccg with
      cc := #v[if moxBit s then 0x21#8 else 0x20#8, s.kcfg.hang.extractLsb' 2 8,
        (s.kcfg.hang.extractLsb' 0 2).setWidth 8, s.tp.sidetoneFreq.extractLsb' 4 8,
        (s.tp.sidetoneFreq.extractLsb' 0 4).setWidth 8], rr := 7#3 } } ∧
    exec .cc7 s = .next { s with ccg := { s.ccg with
      cc := #v[if moxBit s then 0x17#8 else 0x16#8, (if s.kcfg.reversed then 1#8 else 0#8) <<< 6,
        s.kcfg.speed.setWidth 8 ||| s.kcfg.mode.setWidth 8 <<< 6, s.kcfg.weight.setWidth 8, 0x00#8],
      rr := 0#3 } }

/-- After any CC_STEP that is not refused, whatever the layout puts into C0, its MOX bit is off in CW
mode and otherwise follows mox-or-ptt; under the default layout that is bit 0 (R210). -/
def Obligations.MoxBitAfterEveryState : Prop :=
  defaultLayout.moxBit = 0 ∧ ∀ (s t : State), s.run = true →
    ∀ i ∈ [Instr.cc0, .cc1, .cc2, .cc3, .cc4, .cc5, .cc6, .cc7], exec i s = .next t →
      t.trace = s.trace →
      t.ccg.cc[0].getLsbD s.par.layout.moxBit =
        (if s.tp.dspCw then false else s.tp.mox || s.tp.ptt)

/-- The cycle: from state 0, with nothing refused, seven CC_STEPs return to state 0 when the routing
agrees with the cache and eight when it does not, and the cache then agrees (R211, R212). -/
def Obligations.RoundRobinReturnsInSevenOrEight : Prop :=
  ∀ s : State, s.run = true → s.ccg.rr = 0#3 → s.cfg.nrx.toNat ≤ 2 ^ s.par.nrxWidth →
    (∀ r, rxSelected s = some r → rxfreqC0At s.par r ≠ none) →
    ∀ rest : List Request,
    (route s = s.ccg.adcCache → s.script = List.replicate 7 .ccStep ++ rest →
      ∃ t, core.run 7 s = .next t ∧ t.ccg.rr = 0#3 ∧ t.ccg.adcCache = s.ccg.adcCache ∧ t.trace = s.trace) ∧
    (route s ≠ s.ccg.adcCache → s.script = List.replicate 8 .ccStep ++ rest →
      ∃ t, core.run 8 s = .next t ∧ t.ccg.rr = 0#3 ∧ t.ccg.adcCache = route s ∧ t.trace = s.trace)

/-! ### KEY -/

/-- The element lengths under a legal configuration: the formulas, and the ranges 20 to 1200 and 0 to
7200 (R221). -/
def Obligations.ElementLengthsInRange : Prop :=
  ∀ k : Kcfg, 1 ≤ k.speed.toNat → k.speed.toNat ≤ 60 → k.weight.toNat ≤ 100 →
    dotLen k = 1200 / k.speed.toNat ∧ dashLen k = (1200 / k.speed.toNat * 3 * k.weight.toNat) / 50 ∧
    20 ≤ dotLen k ∧ dotLen k ≤ 1200 ∧ dashLen k ≤ 7200

/-- KS_CHECK (R224 to R227). With the key down: held while mode 0 and the dash input say so, else
released with the hang time. With it up: the dash input keys directly in mode 0; otherwise a paddle
starts its element, `TIE_DASH_FIRST` deciding between two; with neither pressed, EXITLOOP exactly when
hang time or a transmit request is left. -/
def Obligations.CheckFollowsThePaddles : Prop :=
  ∀ s : State, s.run = true →
    let d := s.paddle.dot
    let h := s.paddle.dash
    let k : KeyRegs := { s.kr with dotPrev := d, dashPrev := h }
    let on := if s.kr.txReq then [Event.keyDown] else [.moxOn, .keyDown]
    let dot := Host.Outcome.next (φ := Fault) (ρ := Refusal) { s with
      kr := { k with dotMem := false, dotHeld := false, dashHeld := h, key := true, txReq := true,
                     cnt := 0#16, ks := s.par.ksCode.senddot },
      trace := s.trace ++ on }
    let dash := Host.Outcome.next (φ := Fault) (ρ := Refusal) { s with
      kr := { k with dashMem := false, dashHeld := false, dotHeld := d, key := true, txReq := true,
                     cnt := 0#16, ks := s.par.ksCode.senddash },
      trace := s.trace ++ on }
    (s.kr.key = true → s.kcfg.mode = 0#2 → h = true → exec .ksCheck s = .next { s with kr := k }) ∧
    (s.kr.key = true → (s.kcfg.mode ≠ 0#2 ∨ h = false) → exec .ksCheck s = .next { s with
      kr := { k with key := false, cwvox := s.kcfg.hang.setWidth 16 }, trace := s.trace ++ [.keyUp] }) ∧
    (s.kr.key = false → s.kcfg.mode = 0#2 → h = true → exec .ksCheck s = .next { s with
      kr := { k with key := true, txReq := true }, trace := s.trace ++ on }) ∧
    (s.kr.key = false → s.kcfg.mode = 0#2 → h = false → d = true → exec .ksCheck s = dot) ∧
    (s.kr.key = false → s.kcfg.mode ≠ 0#2 → h = true → d = true →
      exec .ksCheck s = if s.par.tieDashFirst then dash else dot) ∧
    (s.kr.key = false → s.kcfg.mode ≠ 0#2 → h = true → d = false → exec .ksCheck s = dash) ∧
    (s.kr.key = false → s.kcfg.mode ≠ 0#2 → h = false → d = true → exec .ksCheck s = dot) ∧
    (s.kr.key = false → h = false → d = false → exec .ksCheck s = .next { s with
      kr := { k with ks := if 0#16 < s.kr.cwvox ∨ s.kr.txReq = true then s.par.ksCode.exitloop
                           else s.kr.ks } })

/-- KS_SENDDOT and KS_SENDDASH (R228, R229, R223): the element counts a tick, or ends with the key up,
the hang time reloaded and the counter at 0; an edge of the opposite paddle sets its memory. -/
def Obligations.ElementsEndWithKeyUp : Prop :=
  ∀ s : State, s.run = true →
    let d := s.paddle.dot
    let h := s.paddle.dash
    let k : KeyRegs := { s.kr with dotPrev := d, dashPrev := h }
    exec .ksSenddot s = .next
      (if 1200 / s.kcfg.speed.toNat ≤ s.kr.cnt.toNat + 1 then
        { s with kr := { k with dashMem := s.kr.dashMem || (h && !s.kr.dashPrev), key := false,
                                cwvox := s.kcfg.hang.setWidth 16, cnt := 0#16,
                                ks := s.par.ksCode.dotdelay },
                 trace := s.trace ++ [.keyUp] }
       else { s with kr := { k with dashMem := s.kr.dashMem || (h && !s.kr.dashPrev),
                                    cnt := s.kr.cnt + 1#16 } }) ∧
    exec .ksSenddash s = .next
      (if 1200 / s.kcfg.speed.toNat * 3 * s.kcfg.weight.toNat / 50 ≤ s.kr.cnt.toNat + 1 then
        { s with kr := { k with dotMem := s.kr.dotMem || (d && !s.kr.dotPrev), key := false,
                                cwvox := s.kcfg.hang.setWidth 16, cnt := 0#16,
                                ks := s.par.ksCode.dashdelay },
                 trace := s.trace ++ [.keyUp] }
       else { s with kr := { k with dotMem := s.kr.dotMem || (d && !s.kr.dotPrev),
                                    cnt := s.kr.cnt + 1#16 } })

/-- KS_DOTDELAY with the key up, as it is in every run (R223, R230, R231): while the space lasts it
counts; at its end the dash is sent if its memory, its paddle or its held flag asks for it, the held
flag first cleared in Mode A with both paddles released; else the dot if its paddle is closed; else
LETTERSPACE or EXITLOOP. -/
def Obligations.DotDelayDecides : Prop :=
  ∀ s : State, s.run = true → s.kr.key = false →
    let d := s.paddle.dot
    let h := s.paddle.dash
    let memory := s.kr.dashMem || (h && !s.kr.dashPrev)
    let held := if s.kcfg.mode = 1#2 ∧ d = false ∧ h = false then false else s.kr.dashHeld
    let k : KeyRegs := { s.kr with dotPrev := d, dashPrev := h, dashMem := memory }
    let on := if s.kr.txReq then [Event.keyDown] else [.moxOn, .keyDown]
    (s.kr.cnt.toNat + 1 < 1200 / s.kcfg.speed.toNat →
      exec .ksDotdelay s = .next { s with kr := { k with cnt := s.kr.cnt + 1#16 } }) ∧
    (1200 / s.kcfg.speed.toNat ≤ s.kr.cnt.toNat + 1 →
      (memory = true ∨ h = true ∨ held = true → exec .ksDotdelay s = .next { s with
        kr := { k with dashMem := false, dashHeld := false, dotHeld := d, key := true, txReq := true,
                       cnt := 0#16, ks := s.par.ksCode.senddash },
        trace := s.trace ++ on }) ∧
      (memory = false → h = false → held = false → d = true → exec .ksDotdelay s = .next { s with
        kr := { k with dotMem := false, dotHeld := false, dashHeld := h, key := true, txReq := true,
                       cnt := 0#16, ks := s.par.ksCode.senddot },
        trace := s.trace ++ on }) ∧
      (memory = false → h = false → held = false → d = false → exec .ksDotdelay s = .next { s with
        kr := if s.kcfg.spacing then
            { k with dashHeld := false, dotMem := false, dashMem := false, cnt := 0#16,
                     ks := s.par.ksCode.letterspace }
          else { k with dashHeld := false, ks := s.par.ksCode.exitloop } }))

/-- KS_DASHDELAY with the key up, as it is in every run: the mirror image of KS_DOTDELAY, after a space
of one dot length too (R223, R231, R232). -/
def Obligations.DashDelayDecides : Prop :=
  ∀ s : State, s.run = true → s.kr.key = false →
    let d := s.paddle.dot
    let h := s.paddle.dash
    let memory := s.kr.dotMem || (d && !s.kr.dotPrev)
    let held := if s.kcfg.mode = 1#2 ∧ d = false ∧ h = false then false else s.kr.dotHeld
    let k : KeyRegs := { s.kr with dotPrev := d, dashPrev := h, dotMem := memory }
    let on := if s.kr.txReq then [Event.keyDown] else [.moxOn, .keyDown]
    (s.kr.cnt.toNat + 1 < 1200 / s.kcfg.speed.toNat →
      exec .ksDashdelay s = .next { s with kr := { k with cnt := s.kr.cnt + 1#16 } }) ∧
    (1200 / s.kcfg.speed.toNat ≤ s.kr.cnt.toNat + 1 →
      (memory = true ∨ d = true ∨ held = true → exec .ksDashdelay s = .next { s with
        kr := { k with dotMem := false, dotHeld := false, dashHeld := h, key := true, txReq := true,
                       cnt := 0#16, ks := s.par.ksCode.senddot },
        trace := s.trace ++ on }) ∧
      (memory = false → d = false → held = false → h = true → exec .ksDashdelay s = .next { s with
        kr := { k with dashMem := false, dashHeld := false, dotHeld := d, key := true, txReq := true,
                       cnt := 0#16, ks := s.par.ksCode.senddash },
        trace := s.trace ++ on }) ∧
      (memory = false → d = false → held = false → h = false → exec .ksDashdelay s = .next { s with
        kr := if s.kcfg.spacing then
            { k with dotHeld := false, dotMem := false, dashMem := false, cnt := 0#16,
                     ks := s.par.ksCode.letterspace }
          else { k with dotHeld := false, ks := s.par.ksCode.exitloop } }))

/-- KS_LETTERSPACE with the key up, as it is in every run (R223, R234): an edge of either paddle sets its
memory; after two dot lengths the memories alone decide, `TIE_DASH_FIRST` between two, and the memory
of the element not chosen stays. -/
def Obligations.LetterSpaceHonoursMemories : Prop :=
  ∀ s : State, s.run = true → s.kr.key = false →
    let d := s.paddle.dot
    let h := s.paddle.dash
    let dotMem := s.kr.dotMem || (d && !s.kr.dotPrev)
    let dashMem := s.kr.dashMem || (h && !s.kr.dashPrev)
    let k : KeyRegs := { s.kr with dotPrev := d, dashPrev := h, dotMem := dotMem, dashMem := dashMem }
    let on := if s.kr.txReq then [Event.keyDown] else [.moxOn, .keyDown]
    let dot := { s with
      kr := { k with dotMem := false, dotHeld := false, dashHeld := h, key := true, txReq := true,
                     cnt := 0#16, ks := s.par.ksCode.senddot },
      trace := s.trace ++ on }
    let dash := { s with
      kr := { k with dashMem := false, dashHeld := false, dotHeld := d, key := true, txReq := true,
                     cnt := 0#16, ks := s.par.ksCode.senddash },
      trace := s.trace ++ on }
    exec .ksLetterspace s = .next
      (if s.kr.cnt.toNat + 1 < 2 * (1200 / s.kcfg.speed.toNat) then
        { s with kr := { k with cnt := s.kr.cnt + 1#16 } }
       else match dotMem, dashMem with
        | true, true => if s.par.tieDashFirst then dash else dot
        | false, true => dash
        | true, false => dot
        | false, false => { s with kr := { k with ks := s.par.ksCode.exitloop } })

/-- KS_EXITLOOP (R235, R223): the hang time counts down whatever the paddles do and sets no memory; at
zero the transmit request drops, with its event if it was up, and CHECK is next. -/
def Obligations.ExitLoopRunsDownTheHangTime : Prop :=
  ∀ s : State, s.run = true →
    let k : KeyRegs := { s.kr with dotPrev := s.paddle.dot, dashPrev := s.paddle.dash }
    (s.kr.cwvox ≠ 0#16 → exec .ksExitloop s = .next { s with kr := { k with cwvox := s.kr.cwvox - 1#16 } }) ∧
    (s.kr.cwvox = 0#16 → exec .ksExitloop s = .next { s with
      kr := { k with txReq := false, ks := s.par.ksCode.check },
      trace := s.trace ++ (if s.kr.txReq then [.moxOff] else []) })

/-- KS_UNKNOWN (R244): the exception is reported with the code, the key is forced up with the hang time
reloaded, EXITLOOP is next, and the latches and the counter stay. -/
def Obligations.UnknownStateRecovers : Prop :=
  ∀ s : State, s.run = true →
    let k : KeyRegs := { s.kr with dotPrev := s.paddle.dot, dashPrev := s.paddle.dash,
                                   ks := s.par.ksCode.exitloop }
    exec .ksUnknown s = .next
      (if s.kr.key then
        { s with kr := { k with key := false, cwvox := s.kcfg.hang.setWidth 16 },
                 trace := s.trace ++ [.unknownKeyerState s.kr.ks, .keyUp] }
       else { s with kr := k, trace := s.trace ++ [.unknownKeyerState s.kr.ks] })

/-- The timing law of an element (R236 (a)): from the start of a dot or dash (its state with the
counter at 0), with the configuration and the paddles constant, the key is not touched for
`L - 1` ticks and comes up on the `L`-th, where `L` is the element's length and at least one. -/
def Obligations.ElementLastsItsLength : Prop :=
  ∀ (s : State) (rest : List Request), s.run = true → paramsWf s.par = true → s.kr.cnt = 0#16 →
    (let len := max 1 (1200 / s.kcfg.speed.toNat)
     s.kr.ks = s.par.ksCode.senddot → s.script = List.replicate len .keyTick ++ rest →
      (∀ n < len, ∃ t, core.run n s = .next t ∧ t.trace = s.trace ∧ t.kr.key = s.kr.key) ∧
      ∃ t, core.run len s = .next t ∧ t.trace = s.trace ++ [.keyUp] ∧ t.kr.key = false ∧
        t.kr.ks = s.par.ksCode.dotdelay ∧ t.kr.cnt = 0#16) ∧
    (let len := max 1 (1200 / s.kcfg.speed.toNat * 3 * s.kcfg.weight.toNat / 50)
     s.kr.ks = s.par.ksCode.senddash → s.script = List.replicate len .keyTick ++ rest →
      (∀ n < len, ∃ t, core.run n s = .next t ∧ t.trace = s.trace ∧ t.kr.key = s.kr.key) ∧
      ∃ t, core.run len s = .next t ∧ t.trace = s.trace ++ [.keyUp] ∧ t.kr.key = false ∧
        t.kr.ks = s.par.ksCode.dashdelay ∧ t.kr.cnt = 0#16)

/-- A KEY_TICK emits one of the groups of R245, in its order, in every state; while stopped, the
refusal. -/
def Obligations.TickEmitsOneGroup : Prop :=
  ∀ s : State, ∀ i ∈ [Instr.ksCheck, .ksSenddot, .ksSenddash, .ksDotdelay, .ksDashdelay, .ksLetterspace,
      .ksExitloop, .ksUnknown],
    ∃ t es, exec i s = .next t ∧ t.trace = s.trace ++ es ∧
      (s.run = false → es = [.refused .notRunning]) ∧
      (s.run = true → es ∈ [[], [.moxOn, .keyDown], [.keyDown], [.keyUp], [.moxOff],
        [.unknownKeyerState s.kr.ks], [.unknownKeyerState s.kr.ks, .keyUp]])

/-- From a state with the invariant, while the block runs, the events a step appends follow the key line
and the transmit request: `KeyDown` and `KeyUp` alternate, `MoxOn` and `MoxOff` alternate, and every
`KeyDown` comes while the request is up (R245). -/
def Obligations.KeyEventsAlternate : Prop :=
  ∀ s t : State, Inv s → s.run = true → step s = .next t → t.run = true →
    ∃ es, t.trace = s.trace ++ es ∧
      keyingOver (s.kr.key, s.kr.txReq) es = some (t.kr.key, t.kr.txReq)
end

