-- ==== Sys2Proof/Laws/State.lean ====
section
/-! SUPPORT. One lemma per field per update of the state, each true by definition, so that no proof unfolds
a record update. -/

namespace Sys2Proof.Machine

/-! ### `withPaddle` -/

@[simp] theorem withPaddle_par (s : State) (x : Paddle) : (s.withPaddle x).par = s.par := rfl
@[simp] theorem withPaddle_run (s : State) (x : Paddle) : (s.withPaddle x).run = s.run := rfl
@[simp] theorem withPaddle_paddle (s : State) (x : Paddle) : (s.withPaddle x).paddle = x := rfl
@[simp] theorem withPaddle_cfg (s : State) (x : Paddle) : (s.withPaddle x).cfg = s.cfg := rfl
@[simp] theorem withPaddle_kcfg (s : State) (x : Paddle) : (s.withPaddle x).kcfg = s.kcfg := rfl
@[simp] theorem withPaddle_tp (s : State) (x : Paddle) : (s.withPaddle x).tp = s.tp := rfl
@[simp] theorem withPaddle_rx (s : State) (x : Paddle) : (s.withPaddle x).rx = s.rx := rfl
@[simp] theorem withPaddle_dec (s : State) (x : Paddle) : (s.withPaddle x).dec = s.dec := rfl
@[simp] theorem withPaddle_ccg (s : State) (x : Paddle) : (s.withPaddle x).ccg = s.ccg := rfl
@[simp] theorem withPaddle_sq (s : State) (x : Paddle) : (s.withPaddle x).sq = s.sq := rfl
@[simp] theorem withPaddle_kr (s : State) (x : Paddle) : (s.withPaddle x).kr = s.kr := rfl
@[simp] theorem withPaddle_session (s : State) (x : Paddle) : (s.withPaddle x).session = s.session := rfl
@[simp] theorem withPaddle_trace (s : State) (x : Paddle) : (s.withPaddle x).trace = s.trace := rfl
@[simp] theorem withPaddle_results (s : State) (x : Paddle) : (s.withPaddle x).results = s.results := rfl
@[simp] theorem withPaddle_script (s : State) (x : Paddle) : (s.withPaddle x).script = s.script := rfl

/-! ### `withCfg` -/

@[simp] theorem withCfg_par (s : State) (x : Cfg) : (s.withCfg x).par = s.par := rfl
@[simp] theorem withCfg_run (s : State) (x : Cfg) : (s.withCfg x).run = s.run := rfl
@[simp] theorem withCfg_paddle (s : State) (x : Cfg) : (s.withCfg x).paddle = s.paddle := rfl
@[simp] theorem withCfg_cfg (s : State) (x : Cfg) : (s.withCfg x).cfg = x := rfl
@[simp] theorem withCfg_kcfg (s : State) (x : Cfg) : (s.withCfg x).kcfg = s.kcfg := rfl
@[simp] theorem withCfg_tp (s : State) (x : Cfg) : (s.withCfg x).tp = s.tp := rfl
@[simp] theorem withCfg_rx (s : State) (x : Cfg) : (s.withCfg x).rx = s.rx := rfl
@[simp] theorem withCfg_dec (s : State) (x : Cfg) : (s.withCfg x).dec = s.dec := rfl
@[simp] theorem withCfg_ccg (s : State) (x : Cfg) : (s.withCfg x).ccg = s.ccg := rfl
@[simp] theorem withCfg_sq (s : State) (x : Cfg) : (s.withCfg x).sq = s.sq := rfl
@[simp] theorem withCfg_kr (s : State) (x : Cfg) : (s.withCfg x).kr = s.kr := rfl
@[simp] theorem withCfg_session (s : State) (x : Cfg) : (s.withCfg x).session = s.session := rfl
@[simp] theorem withCfg_trace (s : State) (x : Cfg) : (s.withCfg x).trace = s.trace := rfl
@[simp] theorem withCfg_results (s : State) (x : Cfg) : (s.withCfg x).results = s.results := rfl
@[simp] theorem withCfg_script (s : State) (x : Cfg) : (s.withCfg x).script = s.script := rfl

/-! ### `withKcfg` -/

@[simp] theorem withKcfg_par (s : State) (x : Kcfg) : (s.withKcfg x).par = s.par := rfl
@[simp] theorem withKcfg_run (s : State) (x : Kcfg) : (s.withKcfg x).run = s.run := rfl
@[simp] theorem withKcfg_paddle (s : State) (x : Kcfg) : (s.withKcfg x).paddle = s.paddle := rfl
@[simp] theorem withKcfg_cfg (s : State) (x : Kcfg) : (s.withKcfg x).cfg = s.cfg := rfl
@[simp] theorem withKcfg_kcfg (s : State) (x : Kcfg) : (s.withKcfg x).kcfg = x := rfl
@[simp] theorem withKcfg_tp (s : State) (x : Kcfg) : (s.withKcfg x).tp = s.tp := rfl
@[simp] theorem withKcfg_rx (s : State) (x : Kcfg) : (s.withKcfg x).rx = s.rx := rfl
@[simp] theorem withKcfg_dec (s : State) (x : Kcfg) : (s.withKcfg x).dec = s.dec := rfl
@[simp] theorem withKcfg_ccg (s : State) (x : Kcfg) : (s.withKcfg x).ccg = s.ccg := rfl
@[simp] theorem withKcfg_sq (s : State) (x : Kcfg) : (s.withKcfg x).sq = s.sq := rfl
@[simp] theorem withKcfg_kr (s : State) (x : Kcfg) : (s.withKcfg x).kr = s.kr := rfl
@[simp] theorem withKcfg_session (s : State) (x : Kcfg) : (s.withKcfg x).session = s.session := rfl
@[simp] theorem withKcfg_trace (s : State) (x : Kcfg) : (s.withKcfg x).trace = s.trace := rfl
@[simp] theorem withKcfg_results (s : State) (x : Kcfg) : (s.withKcfg x).results = s.results := rfl
@[simp] theorem withKcfg_script (s : State) (x : Kcfg) : (s.withKcfg x).script = s.script := rfl

/-! ### `withTp` -/

@[simp] theorem withTp_par (s : State) (x : Tp) : (s.withTp x).par = s.par := rfl
@[simp] theorem withTp_run (s : State) (x : Tp) : (s.withTp x).run = s.run := rfl
@[simp] theorem withTp_paddle (s : State) (x : Tp) : (s.withTp x).paddle = s.paddle := rfl
@[simp] theorem withTp_cfg (s : State) (x : Tp) : (s.withTp x).cfg = s.cfg := rfl
@[simp] theorem withTp_kcfg (s : State) (x : Tp) : (s.withTp x).kcfg = s.kcfg := rfl
@[simp] theorem withTp_tp (s : State) (x : Tp) : (s.withTp x).tp = x := rfl
@[simp] theorem withTp_rx (s : State) (x : Tp) : (s.withTp x).rx = s.rx := rfl
@[simp] theorem withTp_dec (s : State) (x : Tp) : (s.withTp x).dec = s.dec := rfl
@[simp] theorem withTp_ccg (s : State) (x : Tp) : (s.withTp x).ccg = s.ccg := rfl
@[simp] theorem withTp_sq (s : State) (x : Tp) : (s.withTp x).sq = s.sq := rfl
@[simp] theorem withTp_kr (s : State) (x : Tp) : (s.withTp x).kr = s.kr := rfl
@[simp] theorem withTp_session (s : State) (x : Tp) : (s.withTp x).session = s.session := rfl
@[simp] theorem withTp_trace (s : State) (x : Tp) : (s.withTp x).trace = s.trace := rfl
@[simp] theorem withTp_results (s : State) (x : Tp) : (s.withTp x).results = s.results := rfl
@[simp] theorem withTp_script (s : State) (x : Tp) : (s.withTp x).script = s.script := rfl

/-! ### `withRx` -/

@[simp] theorem withRx_par (s : State) (x : Vector Rx 20) : (s.withRx x).par = s.par := rfl
@[simp] theorem withRx_run (s : State) (x : Vector Rx 20) : (s.withRx x).run = s.run := rfl
@[simp] theorem withRx_paddle (s : State) (x : Vector Rx 20) : (s.withRx x).paddle = s.paddle := rfl
@[simp] theorem withRx_cfg (s : State) (x : Vector Rx 20) : (s.withRx x).cfg = s.cfg := rfl
@[simp] theorem withRx_kcfg (s : State) (x : Vector Rx 20) : (s.withRx x).kcfg = s.kcfg := rfl
@[simp] theorem withRx_tp (s : State) (x : Vector Rx 20) : (s.withRx x).tp = s.tp := rfl
@[simp] theorem withRx_rx (s : State) (x : Vector Rx 20) : (s.withRx x).rx = x := rfl
@[simp] theorem withRx_dec (s : State) (x : Vector Rx 20) : (s.withRx x).dec = s.dec := rfl
@[simp] theorem withRx_ccg (s : State) (x : Vector Rx 20) : (s.withRx x).ccg = s.ccg := rfl
@[simp] theorem withRx_sq (s : State) (x : Vector Rx 20) : (s.withRx x).sq = s.sq := rfl
@[simp] theorem withRx_kr (s : State) (x : Vector Rx 20) : (s.withRx x).kr = s.kr := rfl
@[simp] theorem withRx_session (s : State) (x : Vector Rx 20) : (s.withRx x).session = s.session := rfl
@[simp] theorem withRx_trace (s : State) (x : Vector Rx 20) : (s.withRx x).trace = s.trace := rfl
@[simp] theorem withRx_results (s : State) (x : Vector Rx 20) : (s.withRx x).results = s.results := rfl
@[simp] theorem withRx_script (s : State) (x : Vector Rx 20) : (s.withRx x).script = s.script := rfl

/-! ### `withDec` -/

@[simp] theorem withDec_par (s : State) (x : DecRegs) : (s.withDec x).par = s.par := rfl
@[simp] theorem withDec_run (s : State) (x : DecRegs) : (s.withDec x).run = s.run := rfl
@[simp] theorem withDec_paddle (s : State) (x : DecRegs) : (s.withDec x).paddle = s.paddle := rfl
@[simp] theorem withDec_cfg (s : State) (x : DecRegs) : (s.withDec x).cfg = s.cfg := rfl
@[simp] theorem withDec_kcfg (s : State) (x : DecRegs) : (s.withDec x).kcfg = s.kcfg := rfl
@[simp] theorem withDec_tp (s : State) (x : DecRegs) : (s.withDec x).tp = s.tp := rfl
@[simp] theorem withDec_rx (s : State) (x : DecRegs) : (s.withDec x).rx = s.rx := rfl
@[simp] theorem withDec_dec (s : State) (x : DecRegs) : (s.withDec x).dec = x := rfl
@[simp] theorem withDec_ccg (s : State) (x : DecRegs) : (s.withDec x).ccg = s.ccg := rfl
@[simp] theorem withDec_sq (s : State) (x : DecRegs) : (s.withDec x).sq = s.sq := rfl
@[simp] theorem withDec_kr (s : State) (x : DecRegs) : (s.withDec x).kr = s.kr := rfl
@[simp] theorem withDec_session (s : State) (x : DecRegs) : (s.withDec x).session = s.session := rfl
@[simp] theorem withDec_trace (s : State) (x : DecRegs) : (s.withDec x).trace = s.trace := rfl
@[simp] theorem withDec_results (s : State) (x : DecRegs) : (s.withDec x).results = s.results := rfl
@[simp] theorem withDec_script (s : State) (x : DecRegs) : (s.withDec x).script = s.script := rfl

/-! ### `withCcg` -/

@[simp] theorem withCcg_par (s : State) (x : CcgRegs) : (s.withCcg x).par = s.par := rfl
@[simp] theorem withCcg_run (s : State) (x : CcgRegs) : (s.withCcg x).run = s.run := rfl
@[simp] theorem withCcg_paddle (s : State) (x : CcgRegs) : (s.withCcg x).paddle = s.paddle := rfl
@[simp] theorem withCcg_cfg (s : State) (x : CcgRegs) : (s.withCcg x).cfg = s.cfg := rfl
@[simp] theorem withCcg_kcfg (s : State) (x : CcgRegs) : (s.withCcg x).kcfg = s.kcfg := rfl
@[simp] theorem withCcg_tp (s : State) (x : CcgRegs) : (s.withCcg x).tp = s.tp := rfl
@[simp] theorem withCcg_rx (s : State) (x : CcgRegs) : (s.withCcg x).rx = s.rx := rfl
@[simp] theorem withCcg_dec (s : State) (x : CcgRegs) : (s.withCcg x).dec = s.dec := rfl
@[simp] theorem withCcg_ccg (s : State) (x : CcgRegs) : (s.withCcg x).ccg = x := rfl
@[simp] theorem withCcg_sq (s : State) (x : CcgRegs) : (s.withCcg x).sq = s.sq := rfl
@[simp] theorem withCcg_kr (s : State) (x : CcgRegs) : (s.withCcg x).kr = s.kr := rfl
@[simp] theorem withCcg_session (s : State) (x : CcgRegs) : (s.withCcg x).session = s.session := rfl
@[simp] theorem withCcg_trace (s : State) (x : CcgRegs) : (s.withCcg x).trace = s.trace := rfl
@[simp] theorem withCcg_results (s : State) (x : CcgRegs) : (s.withCcg x).results = s.results := rfl
@[simp] theorem withCcg_script (s : State) (x : CcgRegs) : (s.withCcg x).script = s.script := rfl

/-! ### `withSq` -/

@[simp] theorem withSq_par (s : State) (x : SeqRegs) : (s.withSq x).par = s.par := rfl
@[simp] theorem withSq_run (s : State) (x : SeqRegs) : (s.withSq x).run = s.run := rfl
@[simp] theorem withSq_paddle (s : State) (x : SeqRegs) : (s.withSq x).paddle = s.paddle := rfl
@[simp] theorem withSq_cfg (s : State) (x : SeqRegs) : (s.withSq x).cfg = s.cfg := rfl
@[simp] theorem withSq_kcfg (s : State) (x : SeqRegs) : (s.withSq x).kcfg = s.kcfg := rfl
@[simp] theorem withSq_tp (s : State) (x : SeqRegs) : (s.withSq x).tp = s.tp := rfl
@[simp] theorem withSq_rx (s : State) (x : SeqRegs) : (s.withSq x).rx = s.rx := rfl
@[simp] theorem withSq_dec (s : State) (x : SeqRegs) : (s.withSq x).dec = s.dec := rfl
@[simp] theorem withSq_ccg (s : State) (x : SeqRegs) : (s.withSq x).ccg = s.ccg := rfl
@[simp] theorem withSq_sq (s : State) (x : SeqRegs) : (s.withSq x).sq = x := rfl
@[simp] theorem withSq_kr (s : State) (x : SeqRegs) : (s.withSq x).kr = s.kr := rfl
@[simp] theorem withSq_session (s : State) (x : SeqRegs) : (s.withSq x).session = s.session := rfl
@[simp] theorem withSq_trace (s : State) (x : SeqRegs) : (s.withSq x).trace = s.trace := rfl
@[simp] theorem withSq_results (s : State) (x : SeqRegs) : (s.withSq x).results = s.results := rfl
@[simp] theorem withSq_script (s : State) (x : SeqRegs) : (s.withSq x).script = s.script := rfl

/-! ### `withKr` -/

@[simp] theorem withKr_par (s : State) (x : KeyRegs) : (s.withKr x).par = s.par := rfl
@[simp] theorem withKr_run (s : State) (x : KeyRegs) : (s.withKr x).run = s.run := rfl
@[simp] theorem withKr_paddle (s : State) (x : KeyRegs) : (s.withKr x).paddle = s.paddle := rfl
@[simp] theorem withKr_cfg (s : State) (x : KeyRegs) : (s.withKr x).cfg = s.cfg := rfl
@[simp] theorem withKr_kcfg (s : State) (x : KeyRegs) : (s.withKr x).kcfg = s.kcfg := rfl
@[simp] theorem withKr_tp (s : State) (x : KeyRegs) : (s.withKr x).tp = s.tp := rfl
@[simp] theorem withKr_rx (s : State) (x : KeyRegs) : (s.withKr x).rx = s.rx := rfl
@[simp] theorem withKr_dec (s : State) (x : KeyRegs) : (s.withKr x).dec = s.dec := rfl
@[simp] theorem withKr_ccg (s : State) (x : KeyRegs) : (s.withKr x).ccg = s.ccg := rfl
@[simp] theorem withKr_sq (s : State) (x : KeyRegs) : (s.withKr x).sq = s.sq := rfl
@[simp] theorem withKr_kr (s : State) (x : KeyRegs) : (s.withKr x).kr = x := rfl
@[simp] theorem withKr_session (s : State) (x : KeyRegs) : (s.withKr x).session = s.session := rfl
@[simp] theorem withKr_trace (s : State) (x : KeyRegs) : (s.withKr x).trace = s.trace := rfl
@[simp] theorem withKr_results (s : State) (x : KeyRegs) : (s.withKr x).results = s.results := rfl
@[simp] theorem withKr_script (s : State) (x : KeyRegs) : (s.withKr x).script = s.script := rfl

/-! ### `withScript` -/

@[simp] theorem withScript_par (s : State) (x : List Request) : (s.withScript x).par = s.par := rfl
@[simp] theorem withScript_run (s : State) (x : List Request) : (s.withScript x).run = s.run := rfl
@[simp] theorem withScript_paddle (s : State) (x : List Request) : (s.withScript x).paddle = s.paddle := rfl
@[simp] theorem withScript_cfg (s : State) (x : List Request) : (s.withScript x).cfg = s.cfg := rfl
@[simp] theorem withScript_kcfg (s : State) (x : List Request) : (s.withScript x).kcfg = s.kcfg := rfl
@[simp] theorem withScript_tp (s : State) (x : List Request) : (s.withScript x).tp = s.tp := rfl
@[simp] theorem withScript_rx (s : State) (x : List Request) : (s.withScript x).rx = s.rx := rfl
@[simp] theorem withScript_dec (s : State) (x : List Request) : (s.withScript x).dec = s.dec := rfl
@[simp] theorem withScript_ccg (s : State) (x : List Request) : (s.withScript x).ccg = s.ccg := rfl
@[simp] theorem withScript_sq (s : State) (x : List Request) : (s.withScript x).sq = s.sq := rfl
@[simp] theorem withScript_kr (s : State) (x : List Request) : (s.withScript x).kr = s.kr := rfl
@[simp] theorem withScript_session (s : State) (x : List Request) : (s.withScript x).session = s.session := rfl
@[simp] theorem withScript_trace (s : State) (x : List Request) : (s.withScript x).trace = s.trace := rfl
@[simp] theorem withScript_results (s : State) (x : List Request) : (s.withScript x).results = s.results := rfl
@[simp] theorem withScript_script (s : State) (x : List Request) : (s.withScript x).script = x := rfl

/-! ### `emit` -/

@[simp] theorem emit_par (s : State) (x : Event) : (s.emit x).par = s.par := rfl
@[simp] theorem emit_run (s : State) (x : Event) : (s.emit x).run = s.run := rfl
@[simp] theorem emit_paddle (s : State) (x : Event) : (s.emit x).paddle = s.paddle := rfl
@[simp] theorem emit_cfg (s : State) (x : Event) : (s.emit x).cfg = s.cfg := rfl
@[simp] theorem emit_kcfg (s : State) (x : Event) : (s.emit x).kcfg = s.kcfg := rfl
@[simp] theorem emit_tp (s : State) (x : Event) : (s.emit x).tp = s.tp := rfl
@[simp] theorem emit_rx (s : State) (x : Event) : (s.emit x).rx = s.rx := rfl
@[simp] theorem emit_dec (s : State) (x : Event) : (s.emit x).dec = s.dec := rfl
@[simp] theorem emit_ccg (s : State) (x : Event) : (s.emit x).ccg = s.ccg := rfl
@[simp] theorem emit_sq (s : State) (x : Event) : (s.emit x).sq = s.sq := rfl
@[simp] theorem emit_kr (s : State) (x : Event) : (s.emit x).kr = s.kr := rfl
@[simp] theorem emit_session (s : State) (x : Event) : (s.emit x).session = s.session := rfl
@[simp] theorem emit_trace (s : State) (x : Event) : (s.emit x).trace = s.trace ++ [x] := rfl
@[simp] theorem emit_results (s : State) (x : Event) : (s.emit x).results = s.results := rfl
@[simp] theorem emit_script (s : State) (x : Event) : (s.emit x).script = s.script := rfl

/-! ### `answer` -/

@[simp] theorem answer_par (s : State) (x : Result) : (s.answer x).par = s.par := rfl
@[simp] theorem answer_run (s : State) (x : Result) : (s.answer x).run = s.run := rfl
@[simp] theorem answer_paddle (s : State) (x : Result) : (s.answer x).paddle = s.paddle := rfl
@[simp] theorem answer_cfg (s : State) (x : Result) : (s.answer x).cfg = s.cfg := rfl
@[simp] theorem answer_kcfg (s : State) (x : Result) : (s.answer x).kcfg = s.kcfg := rfl
@[simp] theorem answer_tp (s : State) (x : Result) : (s.answer x).tp = s.tp := rfl
@[simp] theorem answer_rx (s : State) (x : Result) : (s.answer x).rx = s.rx := rfl
@[simp] theorem answer_dec (s : State) (x : Result) : (s.answer x).dec = s.dec := rfl
@[simp] theorem answer_ccg (s : State) (x : Result) : (s.answer x).ccg = s.ccg := rfl
@[simp] theorem answer_sq (s : State) (x : Result) : (s.answer x).sq = s.sq := rfl
@[simp] theorem answer_kr (s : State) (x : Result) : (s.answer x).kr = s.kr := rfl
@[simp] theorem answer_session (s : State) (x : Result) : (s.answer x).session = s.session := rfl
@[simp] theorem answer_trace (s : State) (x : Result) : (s.answer x).trace = s.trace := rfl
@[simp] theorem answer_results (s : State) (x : Result) : (s.answer x).results = s.results ++ [x] := rfl
@[simp] theorem answer_script (s : State) (x : Result) : (s.answer x).script = s.script := rfl

/-! ### `refuse`, `resetUnits` -/

@[simp] theorem refuse_par (w : RefuseReason) (s : State) : (refuse w s).par = s.par := rfl
@[simp] theorem refuse_run (w : RefuseReason) (s : State) : (refuse w s).run = s.run := rfl
@[simp] theorem refuse_paddle (w : RefuseReason) (s : State) : (refuse w s).paddle = s.paddle := rfl
@[simp] theorem refuse_cfg (w : RefuseReason) (s : State) : (refuse w s).cfg = s.cfg := rfl
@[simp] theorem refuse_kcfg (w : RefuseReason) (s : State) : (refuse w s).kcfg = s.kcfg := rfl
@[simp] theorem refuse_tp (w : RefuseReason) (s : State) : (refuse w s).tp = s.tp := rfl
@[simp] theorem refuse_rx (w : RefuseReason) (s : State) : (refuse w s).rx = s.rx := rfl
@[simp] theorem refuse_dec (w : RefuseReason) (s : State) : (refuse w s).dec = s.dec := rfl
@[simp] theorem refuse_ccg (w : RefuseReason) (s : State) : (refuse w s).ccg = s.ccg := rfl
@[simp] theorem refuse_sq (w : RefuseReason) (s : State) : (refuse w s).sq = s.sq := rfl
@[simp] theorem refuse_kr (w : RefuseReason) (s : State) : (refuse w s).kr = s.kr := rfl
@[simp] theorem refuse_session (w : RefuseReason) (s : State) : (refuse w s).session = s.session := rfl
@[simp] theorem refuse_trace (w : RefuseReason) (s : State) : (refuse w s).trace = s.trace ++ [.refused w] := rfl
@[simp] theorem refuse_results (w : RefuseReason) (s : State) : (refuse w s).results = s.results := rfl
@[simp] theorem refuse_script (w : RefuseReason) (s : State) : (refuse w s).script = s.script := rfl

@[simp] theorem resetUnits_par (s : State) : (resetUnits s).par = s.par := rfl
@[simp] theorem resetUnits_run (s : State) : (resetUnits s).run = false := rfl
@[simp] theorem resetUnits_paddle (s : State) : (resetUnits s).paddle = ⟨false, false, false⟩ := rfl
@[simp] theorem resetUnits_cfg (s : State) : (resetUnits s).cfg = s.cfg := rfl
@[simp] theorem resetUnits_kcfg (s : State) : (resetUnits s).kcfg = s.kcfg := rfl
@[simp] theorem resetUnits_tp (s : State) : (resetUnits s).tp = s.tp := rfl
@[simp] theorem resetUnits_rx (s : State) : (resetUnits s).rx = s.rx := rfl
@[simp] theorem resetUnits_dec (s : State) : (resetUnits s).dec = DecRegs.reset := rfl
@[simp] theorem resetUnits_ccg (s : State) : (resetUnits s).ccg = CcgRegs.reset s.par := rfl
@[simp] theorem resetUnits_sq (s : State) : (resetUnits s).sq = SeqRegs.reset := rfl
@[simp] theorem resetUnits_kr (s : State) : (resetUnits s).kr = KeyRegs.reset s.par := rfl
@[simp] theorem resetUnits_session (s : State) : (resetUnits s).session = if s.run then s.session + 1 else s.session := rfl
@[simp] theorem resetUnits_trace (s : State) : (resetUnits s).trace = s.trace := rfl
@[simp] theorem resetUnits_results (s : State) : (resetUnits s).results = s.results := rfl
@[simp] theorem resetUnits_script (s : State) : (resetUnits s).script = s.script := rfl

end Sys2Proof.Machine
end

