-- ==== Sys2Proof/Laws/Ops.lean ====
section
/-! SUPPORT. What each shared operation can do, said once: refusing, raising, fetching, and the values a
CFG_WRITE may carry. -/

namespace Sys2Proof.Machine

/-! ### Refusals and exceptions -/

/-- A running block performs the operation. -/
theorem whenRunning_run {s : State} (h : s.run = true) (k : State → State) : whenRunning s k = .next (k s) := by
  simp [whenRunning, h]

/-- A stopped block refuses it and changes nothing else. -/
theorem whenRunning_stopped {s : State} (h : s.run = false) (k : State → State) :
    whenRunning s k = .next (refuse .notRunning s) := by
  simp [whenRunning, h]

/-- Whether or not the block runs, there is a next state. -/
theorem whenRunning_eq (s : State) (k : State → State) :
    whenRunning s k = .next (if s.run then k s else refuse .notRunning s) := by
  cases h : s.run <;> simp [whenRunning, h]

/-- A report is due when none has been made or the last one is more than the gap ago. -/
theorem syncReportDue_iff (s : State) (now : Nat) :
    syncReportDue s now = true ↔
      (s.dec.syncRepValid = false ∨ s.dec.syncRepTime + s.par.syncReportGapMs < now) := by
  simp [syncReportDue]

/-- Taking an exception touches the SyncLost limiter and the trace, and nothing else. -/
theorem raise_frame (x : Exc) (s : State) :
    ∃ v n es, raise x s =
      { s with dec := { s.dec with syncRepValid := v, syncRepTime := n }, trace := s.trace ++ es } := by
  cases x with
  | syncLost now =>
    simp only [raise]
    split
    · exact ⟨true, now, [.syncLost now], rfl⟩
    · exact ⟨s.dec.syncRepValid, s.dec.syncRepTime, [], by simp⟩
  | sequenceGap e q => exact ⟨_, _, [.sequenceGap e q], rfl⟩
  | unknownKeyerState x => exact ⟨_, _, [.unknownKeyerState x], rfl⟩

/-! ### The list of operations to come -/

@[simp] theorem fetch_nil {s : State} (h : s.script = []) : fetch s = none := by simp [fetch, h]

@[simp] theorem fetch_cons {s : State} {r : Request} {rest : List Request} (h : s.script = r :: rest) :
    fetch s = some (r, s.withScript rest) := by simp [fetch, h]

/-- The step at a decodable operation. -/
theorem step_cons {s : State} {r : Request} {rest : List Request} {i : Instr} (h : s.script = r :: rest)
    (hd : decode (fetchContext s) r = .ok i) : step s = exec i (s.withScript rest) := by
  simp [step, fetch, h, hd]

/-- What a step that goes on did: nothing, or one decoded operation. -/
theorem step_cases {s t : State} (h : step s = .next t) :
    (s.script = [] ∧ t = s) ∨
    ∃ r rest i, s.script = r :: rest ∧ decode (fetchContext s) r = .ok i ∧
      exec i (s.withScript rest) = .next t := by
  unfold step fetch at h
  cases hs : s.script with
  | nil =>
    rw [hs] at h
    simp only [Host.Outcome.next.injEq] at h
    exact .inl ⟨rfl, h.symm⟩
  | cons r rest =>
    rw [hs] at h
    simp only at h
    split at h
    · rename_i i hd
      exact .inr ⟨r, rest, i, rfl, hd, h⟩
    · cases h

/-- The last frame is the one ENCODE has just returned. -/
@[simp] theorem lastFrame_answer_frame (s : State) (o : Vector Byte 512) :
    lastFrame (s.answer (.frame o)) = some o := by
  simp [lastFrame, State.answer]

/-! ### Values of CFG_WRITE -/

/-- A whole number is a `w`-bit value exactly when it fits. -/
theorem asBits_natCast (w v : Nat) :
    asBits w (v : Rat) = if v < 2 ^ w then some (BitVec.ofNat w v) else none := by
  have h1 : ((v : Rat)).den = 1 := Rat.den_natCast v
  have h2 : ((v : Rat)).num = (v : Int) := Rat.num_natCast v
  simp only [asBits, h1, h2, true_and, Int.toNat_natCast, Int.natCast_nonneg]
  by_cases h : v < 2 ^ w
  · rw [if_pos h, if_pos]
    exact_mod_cast h
  · rw [if_neg h, if_neg]
    exact_mod_cast h

/-- What is no unsigned integer is no `w`-bit value. -/
theorem asBits_eq_none {w : Nat} {v : Rat} (h : v.den ≠ 1 ∨ v.num < 0 ∨ 2 ^ w ≤ v.num) : asBits w v = none := by
  unfold asBits
  rw [if_neg]
  rintro ⟨h1, h2, h3⟩
  rcases h with h | h | h
  · exact h h1
  · omega
  · omega

/-- The inverse direction: what `asBits` answers is the value. -/
theorem asBits_eq_some {w : Nat} {v : Rat} {b : BitVec w} (h : asBits w v = some b) :
    v.den = 1 ∧ v.num = (b.toNat : Int) := by
  unfold asBits at h
  split at h
  · rename_i hv
    obtain ⟨h1, h2, h3⟩ := hv
    injection h with h
    subst h
    refine ⟨h1, ?_⟩
    have hlt : v.num.toNat < 2 ^ w := by
      have : ((v.num.toNat : Nat) : Int) < ((2 ^ w : Nat) : Int) := by
        rw [Int.toNat_of_nonneg h2]
        exact_mod_cast h3
      exact_mod_cast this
    rw [BitVec.toNat_ofNat, Nat.mod_eq_of_lt hlt, Int.toNat_of_nonneg h2]
  · cases h

/-- A whole number is a bit exactly when it is 0 or 1. -/
theorem asBit_natCast (v : Nat) : asBit (v : Rat) = if v < 2 then some (v == 1) else none := by
  unfold asBit
  rw [asBits_natCast]
  by_cases h : v < 2
  · rw [if_pos (by simpa using h), if_pos h]
    have : v = 0 ∨ v = 1 := by omega
    rcases this with rfl | rfl <;> rfl
  · rw [if_neg (by simpa using h), if_neg h]
    rfl

/-- What is no unsigned integer is no bit. -/
theorem asBit_eq_none {v : Rat} (h : v.den ≠ 1 ∨ v.num < 0) : asBit v = none := by
  unfold asBit
  rw [asBits_eq_none (by tauto)]
  rfl

/-- A whole number is a value of the range exactly when it is in it (and the range fits the width). -/
theorem asRange_natCast (w lo hi v : Nat) (h : hi < 2 ^ w) :
    asRange w lo hi (v : Rat) = if lo ≤ v ∧ v ≤ hi then some (BitVec.ofNat w v) else none := by
  unfold asRange
  rw [asBits_natCast]
  by_cases hv : v < 2 ^ w
  · rw [if_pos hv]
    simp only [BitVec.toNat_ofNat, Nat.mod_eq_of_lt hv]
  · rw [if_neg hv, if_neg (by omega)]

/-- What is no unsigned integer is in no range. -/
theorem asRange_eq_none {w lo hi : Nat} {v : Rat} (h : v.den ≠ 1 ∨ v.num < 0) : asRange w lo hi v = none := by
  unfold asRange
  rw [asBits_eq_none (by tauto)]

/-- What `asRange` answers is in the range. -/
theorem asRange_eq_some {w lo hi : Nat} {v : Rat} {b : BitVec w} (h : asRange w lo hi v = some b) :
    lo ≤ b.toNat ∧ b.toNat ≤ hi := by
  unfold asRange at h
  split at h
  · split at h
    · injection h with h
      subst h
      assumption
    · cases h
  · cases h

/-- A whole number is a band. -/
theorem asBand_natCast (v : Nat) : asBand (v : Rat) = some v := by
  have h1 : ((v : Rat)).den = 1 := Rat.den_natCast v
  have h2 : ((v : Rat)).num = (v : Int) := Rat.num_natCast v
  simp [asBand, h1, h2]

/-- What is no unsigned integer is no band. -/
theorem asBand_eq_none {v : Rat} (h : v.den ≠ 1 ∨ v.num < 0) : asBand v = none := by
  unfold asBand
  rw [if_neg]
  rintro ⟨h1, h2⟩
  rcases h with h | h
  · exact h h1
  · omega

/-! ### CFG_WRITE -/

/-- An accepted CFG_WRITE writes configuration registers and `PADDLE`, and nothing else. -/
theorem writeConfig_frame {reg : CfgReg} {v : Rat} {s t : State} (h : writeConfig reg v s = some t) :
    ∃ pd x k tp rx, t = { s with paddle := pd, cfg := x, kcfg := k, tp := tp, rx := rx } := by
  cases reg <;> simp only [writeConfig, Option.map_eq_some_iff, Option.ite_none_right_eq_some] at h
  case micGain =>
    injection h with h
    exact ⟨_, _, _, _, _, h.symm⟩
  case notConfig => cases h
  case rxFreq =>
    obtain ⟨-, b, -, rfl⟩ := h
    exact ⟨_, _, _, _, _, rfl⟩
  case rxFreqChanged =>
    obtain ⟨-, b, -, rfl⟩ := h
    exact ⟨_, _, _, _, _, rfl⟩
  case rxAdc =>
    obtain ⟨-, b, -, rfl⟩ := h
    exact ⟨_, _, _, _, _, rfl⟩
  all_goals
    obtain ⟨b, -, rfl⟩ := h
    exact ⟨_, _, _, _, _, rfl⟩

end Sys2Proof.Machine
end

