-- ==== Sys2Proof/Laws/Ccg.lean ====
section
/-! SUPPORT. What a CC_STEP can do around the body of a state, the MOX bit, the receiver state 2 selects, and
which fields the default layout puts into each byte. -/

namespace Sys2Proof.Machine

/-! ### CC_STEP around a body -/

/-- A stopped block's CC_STEP is refused. -/
theorem ccStep_stopped {s : State} (h : s.run = false) (body : CcOutcome) :
    ccStep s body = .next (refuse .notRunning s) := by
  rw [ccStep, whenRunning_stopped h]

/-- A running block's CC_STEP whose state decides its bytes. -/
theorem ccStep_done {s : State} (h : s.run = true) (b : Vector Byte 5) (next : BitVec 3) (t : State) :
    ccStep s (.done b next t) = .next (t.withCcg { t.ccg with cc := withMox s b, rr := next }) := by
  rw [ccStep, whenRunning_run h]

/-- A running block's CC_STEP whose state refuses. -/
theorem ccStep_refused {s : State} (h : s.run = true) (why : RefuseReason) :
    ccStep s (.refused why) = .next (refuse why s) := by
  rw [ccStep, whenRunning_run h]

/-- What a CC_STEP can do: refuse with one event, or write the bytes and the next state. -/
theorem ccStep_cases {s t : State} {body : CcOutcome} (h : ccStep s body = .next t) :
    (∃ why, t = refuse why s) ∨
    (s.run = true ∧ ∃ b next u, body = .done b next u ∧
      t = u.withCcg { u.ccg with cc := withMox s b, rr := next }) := by
  cases hr : s.run with
  | false =>
    rw [ccStep, whenRunning_stopped hr] at h
    injection h with h
    exact .inl ⟨_, h.symm⟩
  | true =>
    cases body with
    | refused why =>
      rw [ccStep_refused hr] at h
      injection h with h
      exact .inl ⟨_, h.symm⟩
    | done b next u =>
      rw [ccStep_done hr] at h
      injection h with h
      exact .inr ⟨rfl, b, next, u, rfl, h.symm⟩

/-! ### The MOX bit -/

/-- The bit that `setBit` makes, read back. -/
theorem getLsbD_setBit (x : Byte) (i : Nat) (h : i < 8) (b : Bool) : (setBit x i b).getLsbD i = b := by
  have : i = 0 ∨ i = 1 ∨ i = 2 ∨ i = 3 ∨ i = 4 ∨ i = 5 ∨ i = 6 ∨ i = 7 := by omega
  rcases this with rfl | rfl | rfl | rfl | rfl | rfl | rfl | rfl <;> cases b <;>
    simp [setBit]

/-- The MOX bit of the adjusted bytes, and the other four bytes as they were. -/
theorem withMox_first (s : State) (b : Vector Byte 5) :
    (withMox s b)[0] = setBit b[0] s.par.layout.moxBit.val (moxBit s) := by
  simp [withMox]

theorem withMox_other (s : State) (b : Vector Byte 5) (i : Nat) (h : i < 5) (h0 : i ≠ 0) :
    (withMox s b)[i] = b[i] := by
  simp [withMox, Ne.symm h0]

/-! ### State 2 -/

/-- The receiver state 2 selects is an active one. -/
theorem rxSelected_lt {s : State} {r : Nat} (hn : 0 < s.cfg.nrx.toNat) (h : rxSelected s = some r) :
    r < s.cfg.nrx.toNat := by
  unfold rxSelected at h
  simp only at h
  split at h
  · injection h with h
    omega
  · have := List.mem_of_find?_eq_some h
    simpa using this

/-- `RX[k]` after a write of `RX[r]`: there are 20 receivers. -/
theorem rxAt_putRx (s : State) (r k : Nat) (x : Rx) :
    rxAt (putRx s r x) k = if k = r ∧ r < 20 then x else rxAt s k := by
  unfold rxAt putRx
  by_cases hk : k < 20
  · simp only [hk, dif_pos, withRx_rx, Vector.getElem_setIfInBounds]
    by_cases h : r = k
    · subst h
      simp [hk]
    · simp [h, Ne.symm h]
  · simp only [hk, dif_neg, not_false_eq_true]
    rw [if_neg]
    rintro ⟨rfl, h⟩
    exact hk h

/-- The routing bytes depend on the receivers' `adc` fields and the count alone. -/
theorem route_congr {s t : State} (hn : t.cfg.nrx = s.cfg.nrx) (ha : ∀ k, (rxAt t k).adc = (rxAt s k).adc) :
    route t = route s := by
  simp only [route, routeByte, hn, ha]

/-- Clearing a receiver's change flag leaves the routing bytes as they were. -/
theorem route_clearFlag (s : State) (r : Nat) :
    route (putRx s r { rxAt s r with freqChanged := false }) = route s := by
  refine route_congr rfl fun k => ?_
  rw [rxAt_putRx]
  split
  · rename_i h
    rw [h.1]
  · rfl

/-! ### The default layout -/

/-- The rows of the default layout for each byte of each state that has any. -/
theorem layoutByte_eq {s : State} (h : s.par.layout = defaultLayout) (k : Fin 8) (f : BitVec 32) (b : Fin 5) :
    layoutByte s k f b = (defaultLayout.rows.filter fun r => r.state == k && r.byte == b).foldl
      (fun acc r => acc ||| ccField s f r.field <<< r.lo) 0#8 := by
  rw [layoutByte, h]

/-- No field of the default layout stands in byte 0: C0 is the state's constant. -/
theorem layoutByte_zero {s : State} (h : s.par.layout = defaultLayout) (k : Fin 8) (f : BitVec 32) :
    layoutByte s k f 0 = 0#8 := by
  rw [layoutByte_eq h]
  have : (defaultLayout.rows.filter fun r => r.state == k && r.byte == 0) = [] := by
    revert k
    decide
  rw [this]
  rfl

/-- The five bytes of a state under the default layout. -/
theorem layoutBytes_eq {s : State} (h : s.par.layout = defaultLayout) (k : Fin 8) (x : Byte) (f : BitVec 32) :
    layoutBytes s k x f = #v[x, layoutByte s k f 1, layoutByte s k f 2, layoutByte s k f 3, layoutByte s k f 4] := by
  rw [layoutBytes, layoutByte_zero h]
  simp

end Sys2Proof.Machine
end

