-- ==== Sys2Proof/Laws/Mem.lean ====
section
/-! SUPPORT. The laws of the sample buffers: a write is read back, leaves every other cell alone, and keeps the
canonical form. -/

namespace Sys2Proof.Machine

@[simp] theorem SampleBuf.read_nil (i : Nat) : SampleBuf.read [] i = none := rfl

theorem SampleBuf.read_write_same (b : SampleBuf) (i : Nat) (q : Rat) :
    SampleBuf.read (SampleBuf.write b i q) i = some q := by
  induction b with
  | nil => simp [SampleBuf.write, SampleBuf.read]
  | cons c b ih =>
    obtain ⟨j, x⟩ := c
    simp only [SampleBuf.write]
    split
    · simp [SampleBuf.read]
    · split
      · simp [SampleBuf.read]
      · rename_i _ hne
        simpa [SampleBuf.read, hne] using ih

theorem SampleBuf.read_write_other (b : SampleBuf) (i k : Nat) (q : Rat) (h : k ≠ i) :
    SampleBuf.read (SampleBuf.write b i q) k = SampleBuf.read b k := by
  induction b with
  | nil => simp [SampleBuf.write, SampleBuf.read, h]
  | cons c b ih =>
    obtain ⟨j, x⟩ := c
    simp only [SampleBuf.write]
    split
    · simp [SampleBuf.read, h]
    · split
      · rename_i _ hij
        subst hij
        simp [SampleBuf.read, h]
      · simp only [SampleBuf.read]
        split
        · rfl
        · exact ih

/-- Reading after a write, in one law. -/
theorem SampleBuf.read_write (b : SampleBuf) (i k : Nat) (q : Rat) :
    SampleBuf.read (SampleBuf.write b i q) k = if k = i then some q else SampleBuf.read b k := by
  split
  · rename_i h
    rw [h, SampleBuf.read_write_same]
  · rename_i h
    exact SampleBuf.read_write_other b i k q h

theorem SampleBuf.risingFrom_write (b : SampleBuf) (lo i : Nat) (q : Rat) (hb : SampleBuf.risingFrom lo b = true)
    (hi : lo < i) : SampleBuf.risingFrom lo (SampleBuf.write b i q) = true := by
  induction b generalizing lo with
  | nil => simp [SampleBuf.write, SampleBuf.risingFrom, hi]
  | cons c b ih =>
    obtain ⟨j, x⟩ := c
    simp only [SampleBuf.risingFrom, Bool.and_eq_true, decide_eq_true_eq] at hb
    simp only [SampleBuf.write]
    split
    · rename_i hij
      simp [SampleBuf.risingFrom, hi, hij, hb.2]
    · split
      · rename_i _ hij
        subst hij
        simp [SampleBuf.risingFrom, hi, hb.2]
      · simp only [SampleBuf.risingFrom, Bool.and_eq_true, decide_eq_true_eq]
        exact ⟨hb.1, ih j hb.2 (by omega)⟩

/-- A write keeps the canonical form. -/
theorem SampleBuf.wf_write (b : SampleBuf) (i : Nat) (q : Rat) (hb : SampleBuf.wf b = true) :
    SampleBuf.wf (SampleBuf.write b i q) = true := by
  cases b with
  | nil => simp [SampleBuf.write, SampleBuf.wf, SampleBuf.risingFrom]
  | cons c b =>
    obtain ⟨j, x⟩ := c
    simp only [SampleBuf.wf] at hb
    simp only [SampleBuf.write]
    split
    · rename_i hij
      simp [SampleBuf.wf, SampleBuf.risingFrom, hij, hb]
    · split
      · rename_i _ hij
        subst hij
        simpa [SampleBuf.wf] using hb
      · simpa [SampleBuf.wf] using SampleBuf.risingFrom_write b j i q hb (by omega)

/-- A write below `n` keeps every index below `n`. -/
theorem SampleBuf.below_write (n : Nat) (b : SampleBuf) (i : Nat) (q : Rat) (hb : SampleBuf.below n b = true)
    (hi : i < n) : SampleBuf.below n (SampleBuf.write b i q) = true := by
  induction b with
  | nil => simp [SampleBuf.write, SampleBuf.below, hi]
  | cons c b ih =>
    obtain ⟨j, x⟩ := c
    simp only [SampleBuf.below, List.all_cons, Bool.and_eq_true, decide_eq_true_eq] at hb ih ⊢
    simp only [SampleBuf.write]
    split
    · simp [hi, hb]
    · split
      · simpa [hi] using hb.2
      · simpa [hb.1] using ih hb.2

/-- The canonical form holds of the buffers after reset. -/
theorem memoryWf_reset : memoryWf State.reset = true := by decide

end Sys2Proof.Machine
end

