-- ==== Sys2Proof/Laws/Dec.lean ====
section
/-! SUPPORT. What storing a sample, handing a batch off and walking a frame's sample periods can do, said
once. -/

namespace Sys2Proof.Machine

/-! ### One store -/

@[simp] theorem storeIq_idx (d : DecRegs) (r : Nat) (x y : Rat) : (storeIq d r x y).idx = d.idx := rfl
@[simp] theorem storeIq_status (d : DecRegs) (r : Nat) (x y : Rat) : (storeIq d r x y).status = d.status := rfl
@[simp] theorem storeIq_micbuf (d : DecRegs) (r : Nat) (x y : Rat) : (storeIq d r x y).micbuf = d.micbuf := rfl
@[simp] theorem storeIq_syncRepValid (d : DecRegs) (r : Nat) (x y : Rat) :
    (storeIq d r x y).syncRepValid = d.syncRepValid := rfl
@[simp] theorem storeIq_syncRepTime (d : DecRegs) (r : Nat) (x y : Rat) :
    (storeIq d r x y).syncRepTime = d.syncRepTime := rfl

/-- The I buffers after the store: one write in receiver `r`'s, for a receiver that exists. -/
theorem ibufAt_storeIq (d : DecRegs) (r k : Nat) (x y : Rat) : ibufAt (storeIq d r x y) k =
    if k = r ∧ r < 20 then SampleBuf.write (ibufAt d r) d.idx x else ibufAt d k := by
  unfold storeIq
  unfold ibufAt
  by_cases hk : k < 20
  · simp only [hk, dif_pos, Vector.getElem_setIfInBounds]
    by_cases h : r = k
    · subst h
      simp [hk]
    · simp [h, Ne.symm h]
  · simp only [hk, dif_neg, not_false_eq_true]
    rw [if_neg]
    rintro ⟨rfl, h⟩
    exact hk h

/-- The Q buffers after the store. -/
theorem qbufAt_storeIq (d : DecRegs) (r k : Nat) (x y : Rat) : qbufAt (storeIq d r x y) k =
    if k = r ∧ r < 20 then SampleBuf.write (qbufAt d r) d.idx y else qbufAt d k := by
  unfold storeIq
  unfold qbufAt
  by_cases hk : k < 20
  · simp only [hk, dif_pos, Vector.getElem_setIfInBounds]
    by_cases h : r = k
    · subst h
      simp [hk]
    · simp [h, Ne.symm h]
  · simp only [hk, dif_neg, not_false_eq_true]
    rw [if_neg]
    rintro ⟨rfl, h⟩
    exact hk h

@[simp] theorem storeMic_idx (d : DecRegs) (x : Rat) : (storeMic d x).idx = d.idx := rfl
@[simp] theorem storeMic_status (d : DecRegs) (x : Rat) : (storeMic d x).status = d.status := rfl
@[simp] theorem storeMic_syncRepValid (d : DecRegs) (x : Rat) : (storeMic d x).syncRepValid = d.syncRepValid := rfl
@[simp] theorem storeMic_syncRepTime (d : DecRegs) (x : Rat) : (storeMic d x).syncRepTime = d.syncRepTime := rfl
@[simp] theorem storeMic_micbuf (d : DecRegs) (x : Rat) :
    (storeMic d x).micbuf = SampleBuf.write d.micbuf d.idx x := rfl
@[simp] theorem ibufAt_storeMic (d : DecRegs) (x : Rat) (r : Nat) : ibufAt (storeMic d x) r = ibufAt d r := rfl
@[simp] theorem qbufAt_storeMic (d : DecRegs) (x : Rat) (r : Nat) : qbufAt (storeMic d x) r = qbufAt d r := rfl

/-! ### The receivers of one period -/

theorem storeReceivers_succ (f : Vector Byte 512) (base n : Nat) (d : DecRegs) :
    storeReceivers f base (n + 1) d = storeReceiver f base (storeReceivers f base n d) n := by
  simp [storeReceivers, List.range_succ]

/-- The registers that storing the receivers' samples leaves alone. -/
theorem storeReceivers_frame (f : Vector Byte 512) (base n : Nat) (d : DecRegs) :
    (storeReceivers f base n d).idx = d.idx ∧ (storeReceivers f base n d).status = d.status ∧
    (storeReceivers f base n d).micbuf = d.micbuf ∧
    (storeReceivers f base n d).syncRepValid = d.syncRepValid ∧
    (storeReceivers f base n d).syncRepTime = d.syncRepTime := by
  induction n with
  | zero => exact ⟨rfl, rfl, rfl, rfl, rfl⟩
  | succ n ih =>
    rw [storeReceivers_succ]
    exact ih

/-- Each active receiver's I buffer has its sample at `idx`; the others are as they were. -/
theorem ibufAt_storeReceivers (f : Vector Byte 512) (base n : Nat) (d : DecRegs) (r : Nat) :
    ibufAt (storeReceivers f base n d) r =
      if r < n ∧ r < 20 then SampleBuf.write (ibufAt d r) d.idx (sampleValue f (base + 6 * r)) else ibufAt d r := by
  induction n with
  | zero => simp [storeReceivers]
  | succ n ih =>
    rw [storeReceivers_succ, storeReceiver, ibufAt_storeIq, ih]
    obtain ⟨hi, -⟩ := storeReceivers_frame f base n d
    rw [hi]
    by_cases h : r = n
    · subst h
      by_cases h20 : r < 20
      · simp [h20, ih]
      · simp [h20]
    · have : r < n + 1 ↔ r < n := by omega
      simp [h, this]

/-- Each active receiver's Q buffer has its sample at `idx`; the others are as they were. -/
theorem qbufAt_storeReceivers (f : Vector Byte 512) (base n : Nat) (d : DecRegs) (r : Nat) :
    qbufAt (storeReceivers f base n d) r =
      if r < n ∧ r < 20 then SampleBuf.write (qbufAt d r) d.idx (sampleValue f (base + 6 * r + 3))
      else qbufAt d r := by
  induction n with
  | zero => simp [storeReceivers]
  | succ n ih =>
    rw [storeReceivers_succ, storeReceiver, qbufAt_storeIq, ih]
    obtain ⟨hi, -⟩ := storeReceivers_frame f base n d
    rw [hi]
    by_cases h : r = n
    · subst h
      by_cases h20 : r < 20
      · simp [h20, ih]
      · simp [h20]
    · have : r < n + 1 ↔ r < n := by omega
      simp [h, this]

/-! ### The hand-off and the index -/

/-- The hand-off appends one event a receiver, in ascending order, and changes nothing else. -/
theorem handOff_eq (n : Nat) (s : State) : handOff n s =
    { s with trace := s.trace ++
        (List.range n).map fun r => .readyForDsp r (ibufContents s r) (qbufContents s r) } := by
  induction n with
  | zero => simp [handOff]
  | succ n ih =>
    have h : handOff (n + 1) s =
        (handOff n s).emit (.readyForDsp n (ibufContents (handOff n s) n) (qbufContents (handOff n s) n)) := by
      simp [handOff, List.range_succ]
    rw [h, ih]
    simp [State.emit, List.range_succ]
    exact ⟨rfl, rfl⟩

/-- The index moves on by one and wraps at the batch; the hand-off comes at the wrap. -/
theorem advanceIdx_eq (n : Nat) (s : State) : advanceIdx n s =
    { s with
      dec := { s.dec with idx := if s.dec.idx + 1 = s.par.batch then 0 else s.dec.idx + 1 },
      trace := s.trace ++ if s.dec.idx + 1 = s.par.batch then
        (List.range n).map fun r => .readyForDsp r (ibufContents s r) (qbufContents s r) else [] } := by
  unfold advanceIdx
  split
  · rw [handOff_eq]
    rfl
  · simp [State.withDec]

/-- Where the index is within the batch, moving on is adding one modulo the batch. -/
theorem advanceIdx_idx (n : Nat) (s : State) (h : s.dec.idx < s.par.batch) :
    (advanceIdx n s).dec.idx = (s.dec.idx + 1) % s.par.batch := by
  rw [advanceIdx_eq]
  simp only
  split
  · rename_i hb
    rw [hb, Nat.mod_self]
  · exact (Nat.mod_eq_of_lt (by omega)).symm

/-! ### One period -/

/-- The decoder's registers after a period's samples are stored, before the index moves on. -/
def storePeriod (f : Vector Byte 512) (n : Nat) (g : Rat) (d : DecRegs) (p : Nat) : DecRegs :=
  storeMic (storeReceivers f (periodBase n p) n d) (micValue f g (periodBase n p + 6 * n))

/-- A period: the samples stored, the `Mic` event, the index and the hand-off. -/
theorem samplePeriod_eq (f : Vector Byte 512) (n : Nat) (g : Rat) (s : State) (p : Nat) :
    samplePeriod f n g s p = advanceIdx n ((s.withDec (storePeriod f n g s.dec p)).emit
      (.mic (micValue f g (periodBase n p + 6 * n)))) := rfl

@[simp] theorem storePeriod_idx (f : Vector Byte 512) (n : Nat) (g : Rat) (d : DecRegs) (p : Nat) :
    (storePeriod f n g d p).idx = d.idx := (storeReceivers_frame f _ n d).1

/-- `t` differs from `s` in DEC's registers but for the SyncLost limiter, and in events appended to
the trace, at most. -/
def DecFrame (s t : State) : Prop :=
  t.dec.syncRepValid = s.dec.syncRepValid ∧ t.dec.syncRepTime = s.dec.syncRepTime ∧
  t.dec.status = s.dec.status ∧ ∃ d es, t = { s with dec := d, trace := s.trace ++ es }

theorem DecFrame.refl (s : State) : DecFrame s s := ⟨rfl, rfl, rfl, s.dec, [], by simp⟩

theorem DecFrame.trans {s t u : State} (h : DecFrame s t) (h' : DecFrame t u) : DecFrame s u := by
  obtain ⟨a, b, k, d, es, rfl⟩ := h
  obtain ⟨a', b', k', d', es', rfl⟩ := h'
  exact ⟨a'.trans a, b'.trans b, k'.trans k, d', es ++ es', by simp⟩

theorem DecFrame.advanceIdx (n : Nat) (s : State) : DecFrame s (advanceIdx n s) := by
  rw [advanceIdx_eq]
  exact ⟨rfl, rfl, rfl, _, _, rfl⟩

theorem DecFrame.samplePeriod (f : Vector Byte 512) (n : Nat) (g : Rat) (s : State) (p : Nat) :
    DecFrame s (samplePeriod f n g s p) := by
  obtain ⟨-, h2, -, h4, h5⟩ := storeReceivers_frame f (periodBase n p) n s.dec
  rw [samplePeriod_eq]
  exact DecFrame.trans ⟨h4, h5, h2, _, [_], rfl⟩ (DecFrame.advanceIdx n _)

/-! ### The walk -/

theorem walkPeriods_zero (f : Vector Byte 512) (n : Nat) (g : Rat) (s : State) : walkPeriods f n g 0 s = s := rfl

theorem walkPeriods_succ (f : Vector Byte 512) (n : Nat) (g : Rat) (k : Nat) (s : State) :
    walkPeriods f n g (k + 1) s = samplePeriod f n g (walkPeriods f n g k s) k := by
  simp [walkPeriods, List.range_succ]

theorem DecFrame.walkPeriods (f : Vector Byte 512) (n : Nat) (g : Rat) (k : Nat) (s : State) :
    DecFrame s (walkPeriods f n g k s) := by
  induction k with
  | zero => exact DecFrame.refl s
  | succ k ih =>
    rw [walkPeriods_succ]
    exact ih.trans (DecFrame.samplePeriod f n g _ k)

/-- The index after `k` periods. -/
theorem walkPeriods_idx (f : Vector Byte 512) (n : Nat) (g : Rat) (k : Nat) (s : State)
    (h : s.dec.idx < s.par.batch) :
    (walkPeriods f n g k s).dec.idx = (s.dec.idx + k) % s.par.batch := by
  induction k with
  | zero => simp [walkPeriods_zero, Nat.mod_eq_of_lt h]
  | succ k ih =>
    rw [walkPeriods_succ, samplePeriod_eq]
    obtain ⟨-, -, -, d, es, hw⟩ := DecFrame.walkPeriods f n g k s
    have hp : (Machine.walkPeriods f n g k s).par = s.par := by rw [hw]
    rw [advanceIdx_idx]
    · simp only [emit_dec, withDec_dec, emit_par, withDec_par, storePeriod_idx, ih, hp]
      rw [Nat.mod_add_mod, Nat.add_assoc]
    · simp only [emit_dec, withDec_dec, emit_par, withDec_par, storePeriod_idx, ih, hp]
      exact Nat.mod_lt _ (by omega)

/-- One cell of an I buffer after a period. -/
theorem iCell_samplePeriod (f : Vector Byte 512) (n : Nat) (g : Rat) (s : State) (p r a : Nat) :
    iCell (samplePeriod f n g s p) r a =
      if r < n ∧ r < 20 ∧ a = s.dec.idx then some (sampleValue f (periodBase n p + 6 * r)) else iCell s r a := by
  rw [samplePeriod_eq, advanceIdx_eq]
  show SampleBuf.read (ibufAt (storeReceivers f (periodBase n p) n s.dec) r) a = _
  rw [ibufAt_storeReceivers]
  by_cases h : r < n ∧ r < 20
  · rw [if_pos h, SampleBuf.read_write]
    simp [h, iCell]
  · rw [if_neg h, if_neg (by tauto)]
    rfl

/-- One cell of a Q buffer after a period. -/
theorem qCell_samplePeriod (f : Vector Byte 512) (n : Nat) (g : Rat) (s : State) (p r a : Nat) :
    qCell (samplePeriod f n g s p) r a =
      if r < n ∧ r < 20 ∧ a = s.dec.idx then some (sampleValue f (periodBase n p + 6 * r + 3))
      else qCell s r a := by
  rw [samplePeriod_eq, advanceIdx_eq]
  show SampleBuf.read (qbufAt (storeReceivers f (periodBase n p) n s.dec) r) a = _
  rw [qbufAt_storeReceivers]
  by_cases h : r < n ∧ r < 20
  · rw [if_pos h, SampleBuf.read_write]
    simp [h, qCell]
  · rw [if_neg h, if_neg (by tauto)]
    rfl

/-- One cell of the mic buffer after a period. -/
theorem micCell_samplePeriod (f : Vector Byte 512) (n : Nat) (g : Rat) (s : State) (p a : Nat) :
    micCell (samplePeriod f n g s p) a =
      if a = s.dec.idx then some (micValue f g (periodBase n p + 6 * n)) else micCell s a := by
  obtain ⟨h1, -, h3, -, -⟩ := storeReceivers_frame f (periodBase n p) n s.dec
  rw [samplePeriod_eq, advanceIdx_eq]
  show SampleBuf.read (storePeriod f n g s.dec p).micbuf a = _
  rw [storePeriod, storeMic_micbuf, h1, h3, SampleBuf.read_write]
  rfl

/-- The events of a period. -/
theorem samplePeriod_trace (f : Vector Byte 512) (n : Nat) (g : Rat) (s : State) (p : Nat) :
    (samplePeriod f n g s p).trace = s.trace ++ .mic (micValue f g (periodBase n p + 6 * n)) ::
      if s.dec.idx + 1 = s.par.batch then
        (List.range n).map fun r =>
          .readyForDsp r (ibufContents (samplePeriod f n g s p) r) (qbufContents (samplePeriod f n g s p) r)
      else [] := by
  rw [samplePeriod_eq, advanceIdx_eq]
  simp only [emit_dec, withDec_dec, storePeriod_idx, emit_par, withDec_par, emit_trace, withDec_trace,
    List.append_assoc, List.cons_append, List.nil_append]
  rfl

/-- The events of the walk are mic samples and hand-offs. -/
theorem walkPeriods_events (f : Vector Byte 512) (n : Nat) (g : Rat) (k : Nat) (s : State) :
    ∃ es, (walkPeriods f n g k s).trace = s.trace ++ es ∧
      ∀ e ∈ es, (∃ q, e = .mic q) ∨ ∃ r i q, e = .readyForDsp r i q := by
  induction k with
  | zero => exact ⟨[], by simp [walkPeriods_zero], by simp⟩
  | succ k ih =>
    obtain ⟨es, h, he⟩ := ih
    rw [walkPeriods_succ, samplePeriod_trace, h, List.append_assoc]
    refine ⟨_, rfl, ?_⟩
    intro e hm
    rw [List.mem_append, List.mem_cons] at hm
    rcases hm with hm | rfl | hm
    · exact he e hm
    · exact .inl ⟨_, rfl⟩
    · split at hm
      · obtain ⟨r, -, rfl⟩ := List.mem_map.1 hm
        exact .inr ⟨_, _, _, rfl⟩
      · cases hm

/-! ### The canonical form and the batch -/

/-- Every I and Q buffer of `d`, and its mic buffer, satisfies `b`. -/
def buffersAll (b : SampleBuf → Bool) (d : DecRegs) : Prop :=
  (∀ r, b (ibufAt d r) = true) ∧ (∀ r, b (qbufAt d r) = true) ∧ b d.micbuf = true

/-- A property of buffers that the empty buffer has and every write at `idx` keeps is kept by a period. -/
theorem buffersAll_storePeriod {b : SampleBuf → Bool} {d : DecRegs}
    (hb : ∀ x q, b x = true → b (SampleBuf.write x d.idx q) = true) (h : buffersAll b d)
    (f : Vector Byte 512) (n : Nat) (g : Rat) (p : Nat) : buffersAll b (storePeriod f n g d p) := by
  obtain ⟨h1, h2, h3⟩ := h
  obtain ⟨hi, -, hm, -, -⟩ := storeReceivers_frame f (periodBase n p) n d
  refine ⟨fun r => ?_, fun r => ?_, ?_⟩
  · rw [storePeriod, ibufAt_storeMic, ibufAt_storeReceivers]
    split
    · exact hb _ _ (h1 r)
    · exact h1 r
  · rw [storePeriod, qbufAt_storeMic, qbufAt_storeReceivers]
    split
    · exact hb _ _ (h2 r)
    · exact h2 r
  · rw [storePeriod, storeMic_micbuf, hi, hm]
    exact hb _ _ h3

/-- All the I buffers, as a list and one by one. -/
theorem ibuf_all_iff {b : SampleBuf → Bool} (he : b [] = true) (d : DecRegs) :
    d.ibuf.toList.all b = true ↔ ∀ r, b (ibufAt d r) = true := by
  rw [List.all_eq_true]
  constructor
  · intro h r
    unfold ibufAt
    split
    · exact h _ (by simp)
    · exact he
  · intro h x hx
    obtain ⟨r, hr, rfl⟩ := List.mem_iff_getElem.1 hx
    have h20 : r < 20 := by simpa using hr
    have := h r
    simpa [ibufAt, h20] using this

/-- All the Q buffers, as a list and one by one. -/
theorem qbuf_all_iff {b : SampleBuf → Bool} (he : b [] = true) (d : DecRegs) :
    d.qbuf.toList.all b = true ↔ ∀ r, b (qbufAt d r) = true := by
  rw [List.all_eq_true]
  constructor
  · intro h r
    unfold qbufAt
    split
    · exact h _ (by simp)
    · exact he
  · intro h x hx
    obtain ⟨r, hr, rfl⟩ := List.mem_iff_getElem.1 hx
    have h20 : r < 20 := by simpa using hr
    have := h r
    simpa [qbufAt, h20] using this

/-- The canonical form, buffer by buffer. -/
theorem memoryWf_iff (s : State) : memoryWf s = true ↔ buffersAll SampleBuf.wf s.dec := by
  simp only [memoryWf, Bool.and_eq_true, buffersAll, ibuf_all_iff (b := SampleBuf.wf) rfl,
    qbuf_all_iff (b := SampleBuf.wf) rfl, and_assoc]

/-- The batch bound, buffer by buffer. -/
theorem buffersInBatch_iff (s : State) : buffersInBatch s = true ↔
    (s.dec.idx < s.par.batch ∧ buffersAll (SampleBuf.below s.par.batch) s.dec) := by
  simp only [buffersInBatch, Bool.and_eq_true, buffersAll, decide_eq_true_eq,
    ibuf_all_iff (b := SampleBuf.below s.par.batch) rfl, qbuf_all_iff (b := SampleBuf.below s.par.batch) rfl,
    and_assoc]

/-- The buffers do not depend on the index: moving it on keeps what holds of each. -/
theorem buffersAll_advanceIdx {b : SampleBuf → Bool} (n : Nat) {s : State} (h : buffersAll b s.dec) :
    buffersAll b (advanceIdx n s).dec := by
  rw [advanceIdx_eq]
  exact h

/-- Walking a frame's periods keeps the canonical form. -/
theorem memoryWf_walkPeriods (f : Vector Byte 512) (n : Nat) (g : Rat) (k : Nat) (s : State)
    (h : memoryWf s = true) : memoryWf (walkPeriods f n g k s) = true := by
  induction k with
  | zero => exact h
  | succ k ih =>
    rw [walkPeriods_succ, samplePeriod_eq, memoryWf_iff]
    exact buffersAll_advanceIdx n (buffersAll_storePeriod (fun x q hx => SampleBuf.wf_write x _ q hx)
      ((memoryWf_iff _).1 ih) f n g k)

/-- Walking a frame's periods keeps the buffers and the index within the batch. -/
theorem buffersInBatch_walkPeriods (f : Vector Byte 512) (n : Nat) (g : Rat) (k : Nat) (s : State)
    (h : buffersInBatch s = true) : buffersInBatch (walkPeriods f n g k s) = true := by
  have hlt := ((buffersInBatch_iff s).1 h).1
  induction k with
  | zero => exact h
  | succ k ih =>
    have hi := walkPeriods_idx f n g (k + 1) s hlt
    obtain ⟨-, -, -, d, es, hw⟩ := DecFrame.walkPeriods f n g (k + 1) s
    have hp : (Machine.walkPeriods f n g (k + 1) s).par = s.par := by rw [hw]
    obtain ⟨-, -, -, d', es', hw'⟩ := DecFrame.walkPeriods f n g k s
    have hp' : (Machine.walkPeriods f n g k s).par = s.par := by rw [hw']
    obtain ⟨ih1, ih2⟩ := (buffersInBatch_iff _).1 ih
    refine (buffersInBatch_iff _).2 ⟨?_, ?_⟩
    · rw [hi, hp]
      exact Nat.mod_lt _ (by omega)
    · rw [hp, walkPeriods_succ, samplePeriod_eq]
      refine buffersAll_advanceIdx n (buffersAll_storePeriod (fun x q hx => ?_) (hp' ▸ ih2) f n g k)
      exact SampleBuf.below_write _ x _ q hx (hp' ▸ ih1)

end Sys2Proof.Machine
end

