-- ==== Sys2Proof/Laws/Decode.lean ====
section
/-! SUPPORT. What the decoder's helpers can answer: byte strings of a fixed length, and the rows that the
registers `rr` and `ks` select. -/

namespace Sys2Proof.Machine

/-- Bytes of the right length are those bytes. -/
theorem ofLength_toList {n : Nat} (f : Vector Byte n) : ofLength n f.toList = some f := by
  unfold ofLength
  rw [dif_pos (by simp)]
  cases f
  simp [Vector.toList]

/-- What `ofLength` answers has exactly the bytes it was given. -/
theorem toList_of_ofLength {n : Nat} {l : List Byte} {f : Vector Byte n} (h : ofLength n l = some f) :
    f.toList = l := by
  unfold ofLength at h
  split at h
  · injection h with h
    subst h
    simp
  · cases h

/-- `ofLength` refuses exactly the byte strings of another length. -/
theorem ofLength_eq_none_iff {n : Nat} {l : List Byte} : ofLength n l = none ↔ l.length ≠ n := by
  unfold ofLength
  split <;> simp_all

/-- Seven different codes, so that each code names its own state. -/
theorem keyerStateOf_ksCodeOf (k : KsCodes) (h : (ksCodeList k).Nodup) (st : KeyerState) :
    keyerStateOf k (ksCodeOf k st) = some st := by
  simp only [ksCodeList, List.nodup_cons, List.mem_cons, not_or, List.not_mem_nil, not_false_eq_true,
    List.nodup_nil, and_true] at h
  obtain ⟨⟨_, _, _, _, _, _⟩, ⟨_, _, _, _, _⟩, ⟨_, _, _, _⟩, ⟨_, _, _⟩, ⟨_, _⟩, _⟩ := h
  cases st <;> simp only [keyerStateOf, ksCodeOf] <;> (repeat' split) <;>
    first | rfl | (exfalso; simp_all)

/-- A code that names a state is that state's code. -/
theorem ksCodeOf_of_keyerStateOf {k : KsCodes} {code : BitVec 3} {st : KeyerState}
    (h : keyerStateOf k code = some st) : code = ksCodeOf k st := by
  unfold keyerStateOf at h
  repeat' split at h
  all_goals first | (cases h; assumption) | cases h

/-- A code names no state exactly when it is none of the seven. -/
theorem keyerStateOf_eq_none_iff (k : KsCodes) (code : BitVec 3) :
    keyerStateOf k code = none ↔ (ksCodeList k).contains code = false := by
  unfold keyerStateOf ksCodeList
  repeat' split
  all_goals simp_all

end Sys2Proof.Machine

namespace Sys2Proof

/-- The row of CC_STEP under `rr` is a row whose selector holds. -/
theorem selects_ccRow (x : Context) : selects x (ccRow x.rr) = true := by
  obtain ⟨p, rr, ks, hp, b, l⟩ := x
  show selects ⟨p, rr, ks, hp, b, l⟩ (ccRow rr) = true
  have : rr = 0#3 ∨ rr = 1#3 ∨ rr = 2#3 ∨ rr = 3#3 ∨ rr = 4#3 ∨ rr = 5#3 ∨ rr = 6#3 ∨ rr = 7#3 := by
    revert rr
    decide
  rcases this with rfl | rfl | rfl | rfl | rfl | rfl | rfl | rfl <;> rfl

/-- The row of CC_STEP is one of eight, and the encoder presents each as `CCSTEP`. -/
theorem encode_ccRow (rr : BitVec 3) : encode (ccRow rr) = .ccStep := by
  unfold ccRow
  repeat' split
  all_goals rfl

/-- The row of KEY_TICK is one of eight, and the encoder presents each as `KEYTICK`. -/
theorem encode_ksRow (st : Option KeyerState) : encode (ksRow st) = .keyTick := by
  rcases st with _ | st
  · rfl
  · cases st <;> rfl

/-- The row of KEY_TICK under `ks` is a row whose selector holds. -/
theorem selects_ksRow (x : Context) : selects x (ksRow (Machine.keyerStateOf x.par.ksCode x.ks)) = true := by
  cases h : Machine.keyerStateOf x.par.ksCode x.ks with
  | none =>
    have := (Machine.keyerStateOf_eq_none_iff _ _).1 h
    simpa [ksRow, selects] using this
  | some st =>
    have := Machine.ksCodeOf_of_keyerStateOf h
    cases st <;> simp [ksRow, selects, this, Machine.ksCodeOf]

end Sys2Proof
end

