-- ==== Sys2Proof/Laws/Enc.lean ====
section
/-! SUPPORT. Byte by byte, the half-frame that ENCODE builds. -/

namespace Sys2Proof.Machine

/-- The bytes of an outgoing half-frame: SYNC, the five control bytes, the payload. -/
theorem getElem_halfFrame (p : Params) (x : Vector Byte 5) (y : Vector Byte 504) (i : Nat) (h : i < 512) :
    (halfFrame p x y)[i] = if h3 : i < 3 then p.sync[i] else if h8 : i < 8 then x[i - 3] else y[i - 8] := by
  have h1 : (halfFrame p x y)[i] = (p.sync ++ x ++ y)[i]'(by omega) := by
    unfold halfFrame
    rw [Vector.getElem_cast]
  rw [h1, Vector.getElem_append (xs := p.sync ++ x) (ys := y) (by omega)]
  by_cases h3 : i < 3
  · rw [dif_pos h3, dif_pos (by omega), Vector.getElem_append, dif_pos h3]
  · rw [dif_neg h3]
    by_cases h8 : i < 8
    · rw [dif_pos h8, dif_pos (by omega), Vector.getElem_append, dif_neg h3]
    · rw [dif_neg h8, dif_neg (by omega)]

/-- DECODE accepts the SYNC that ENCODE wrote. -/
theorem syncMatches_halfFrame (p : Params) (x : Vector Byte 5) (y : Vector Byte 504) :
    syncMatches p (halfFrame p x y) = true := by
  simp [syncMatches, getElem_halfFrame]

/-- Its status bytes are the control bytes. -/
theorem statusBytes_halfFrame (p : Params) (x : Vector Byte 5) (y : Vector Byte 504) :
    statusBytes (halfFrame p x y) = x := by
  ext i hi
  have : i = 0 ∨ i = 1 ∨ i = 2 ∨ i = 3 ∨ i = 4 := by omega
  rcases this with rfl | rfl | rfl | rfl | rfl <;> simp [statusBytes, getElem_halfFrame]

end Sys2Proof.Machine
end

