-- ==== Sys2Proof/Laws/Key.lean ====
section
/-! SUPPORT. What each shared procedure of the keyer does, said once, and the frame of every state rule. -/

namespace Sys2Proof.Machine

/-! ### The shared procedures -/

/-- With the key up, `key_down()` puts it down and raises the transmit request, `MoxOn` first if it
was not up. -/
theorem keyDown_up {s : State} (h : s.kr.key = false) : keyDown s =
    { s with kr := { s.kr with key := true, txReq := true },
             trace := s.trace ++ (if s.kr.txReq then [.keyDown] else [.moxOn, .keyDown]) } := by
  cases hx : s.kr.txReq <;> simp [keyDown, h, hx, State.emit, State.withKr]

/-- With the key down, `key_down()` does nothing. -/
theorem keyDown_down {s : State} (h : s.kr.key = true) : keyDown s = s := by simp [keyDown, h]

theorem keyUp_eq (s : State) : keyUp s =
    { s with kr := { s.kr with key := false, cwvox := s.kcfg.hang.setWidth 16 },
             trace := s.trace ++ [.keyUp] } := rfl

theorem toKeyerState_eq (st : KeyerState) (s : State) :
    toKeyerState st s = { s with kr := { s.kr with ks := ksCodeOf s.par.ksCode st } } := rfl

/-- With the key up, `enter_dot()` starts a dot. -/
theorem enterDot_up {s : State} (b : Bool) (h : s.kr.key = false) : enterDot b s =
    { s with
      kr := { s.kr with dotMem := false, dotHeld := false, dashHeld := b, key := true, txReq := true,
                        cnt := 0#16, ks := s.par.ksCode.senddot },
      trace := s.trace ++ (if s.kr.txReq then [.keyDown] else [.moxOn, .keyDown]) } := by
  unfold enterDot
  rw [keyDown_up (by simpa using h)]
  rfl

/-- With the key up, `enter_dash()` starts a dash. -/
theorem enterDash_up {s : State} (b : Bool) (h : s.kr.key = false) : enterDash b s =
    { s with
      kr := { s.kr with dashMem := false, dashHeld := false, dotHeld := b, key := true, txReq := true,
                        cnt := 0#16, ks := s.par.ksCode.senddash },
      trace := s.trace ++ (if s.kr.txReq then [.keyDown] else [.moxOn, .keyDown]) } := by
  unfold enterDash
  rw [keyDown_up (by simpa using h)]
  rfl

theorem toLetterspace_eq (s : State) : toLetterspace s =
    { s with kr := { s.kr with dotMem := false, dashMem := false, cnt := 0#16,
                               ks := s.par.ksCode.letterspace } } := rfl

theorem countTick_eq (s : State) : countTick s = { s with kr := { s.kr with cnt := s.kr.cnt + 1#16 } } := rfl

theorem endElement_eq (st : KeyerState) (s : State) : endElement st s =
    { s with kr := { s.kr with key := false, cwvox := s.kcfg.hang.setWidth 16, cnt := 0#16,
                               ks := ksCodeOf s.par.ksCode st },
             trace := s.trace ++ [.keyUp] } := rfl

/-! The same from `s.withKr k`, the form in which a tick's rule meets them. -/

theorem withKr_withKr (s : State) (k k' : KeyRegs) : (s.withKr k).withKr k' = s.withKr k' := rfl

theorem keyDown_withKr {k : KeyRegs} (s : State) (h : k.key = false) : keyDown (s.withKr k) =
    { s with kr := { k with key := true, txReq := true },
             trace := s.trace ++ (if k.txReq then [.keyDown] else [.moxOn, .keyDown]) } :=
  keyDown_up (s := s.withKr k) h

theorem keyUp_withKr (s : State) (k : KeyRegs) : keyUp (s.withKr k) =
    { s with kr := { k with key := false, cwvox := s.kcfg.hang.setWidth 16 },
             trace := s.trace ++ [.keyUp] } := rfl

theorem enterDot_withKr {k : KeyRegs} (s : State) (b : Bool) (h : k.key = false) : enterDot b (s.withKr k) =
    { s with
      kr := { k with dotMem := false, dotHeld := false, dashHeld := b, key := true, txReq := true,
                     cnt := 0#16, ks := s.par.ksCode.senddot },
      trace := s.trace ++ (if k.txReq then [.keyDown] else [.moxOn, .keyDown]) } :=
  enterDot_up (s := s.withKr k) b h

theorem enterDash_withKr {k : KeyRegs} (s : State) (b : Bool) (h : k.key = false) : enterDash b (s.withKr k) =
    { s with
      kr := { k with dashMem := false, dashHeld := false, dotHeld := b, key := true, txReq := true,
                     cnt := 0#16, ks := s.par.ksCode.senddash },
      trace := s.trace ++ (if k.txReq then [.keyDown] else [.moxOn, .keyDown]) } :=
  enterDash_up (s := s.withKr k) b h

theorem toKeyerState_withKr (st : KeyerState) (s : State) (k : KeyRegs) :
    toKeyerState st (s.withKr k) = s.withKr { k with ks := ksCodeOf s.par.ksCode st } := rfl

theorem enterTied_withKr (d h : Bool) (s : State) (k : KeyRegs) : enterTied d h (s.withKr k) =
    if s.par.tieDashFirst then enterDash d (s.withKr k) else enterDot h (s.withKr k) := rfl

theorem idle_withKr (s : State) (k : KeyRegs) : idle (s.withKr k) =
    s.withKr { k with ks := if 0 < k.cwvox.toNat ∨ k.txReq = true then s.par.ksCode.exitloop else k.ks } := by
  have hb : (decide (0 < (s.withKr k).kr.cwvox.toNat) || (s.withKr k).kr.txReq) = true ↔
      (0 < k.cwvox.toNat ∨ k.txReq = true) := by
    rw [Bool.or_eq_true, decide_eq_true_eq]
    rfl
  by_cases h : 0 < k.cwvox.toNat ∨ k.txReq = true
  · rw [idle, if_pos (hb.2 h), if_pos h]
    rfl
  · rw [idle, if_neg (fun h' => h (hb.1 h')), if_neg h]

theorem endSequence_withKr (s : State) (k : KeyRegs) : endSequence (s.withKr k) =
    s.withKr (if s.kcfg.spacing then
      { k with dotMem := false, dashMem := false, cnt := 0#16, ks := s.par.ksCode.letterspace }
      else { k with ks := s.par.ksCode.exitloop }) := by
  cases h : s.kcfg.spacing <;> simp [endSequence, h, toLetterspace, toKeyerState, State.withKr, ksCodeOf]

theorem countTick_withKr (s : State) (k : KeyRegs) :
    countTick (s.withKr k) = s.withKr { k with cnt := k.cnt + 1#16 } := rfl

theorem endElement_withKr (st : KeyerState) (s : State) (k : KeyRegs) : endElement st (s.withKr k) =
    { s with kr := { k with key := false, cwvox := s.kcfg.hang.setWidth 16, cnt := 0#16,
                            ks := ksCodeOf s.par.ksCode st },
             trace := s.trace ++ [.keyUp] } := rfl

/-! What the two decisions choose, as functions of the keyer's registers. -/

/-- The decision after a dot: Mode A with both paddles released clears the dash held flag, and then
the dash, the dot, or the end of the sequence. -/
theorem decideAfterDot_withKr (d h : Bool) (s : State) (k : KeyRegs) : decideAfterDot d h (s.withKr k) =
    (let held := if s.kcfg.mode = 1#2 ∧ d = false ∧ h = false then false else k.dashHeld
     let u := s.withKr { k with dashHeld := held }
     if k.dashMem = true ∨ h = true ∨ held = true then enterDash d u
     else if d = true then enterDot h u
     else endSequence u) := by
  have hm : modeARelease (s.withKr k) d h = decide (s.kcfg.mode = 1#2 ∧ d = false ∧ h = false) := by
    rw [Bool.eq_iff_iff, decide_eq_true_eq]
    simp [modeARelease, and_assoc]
  simp only [decideAfterDot, hm]
  by_cases hc : s.kcfg.mode = 1#2 ∧ d = false ∧ h = false
  · simp [hc, State.withKr]
  · simp only [hc, decide_false, Bool.false_eq_true, if_false, withKr_kr, Bool.or_eq_true, or_assoc]

/-- The mirror image after a dash. -/
theorem decideAfterDash_withKr (d h : Bool) (s : State) (k : KeyRegs) : decideAfterDash d h (s.withKr k) =
    (let held := if s.kcfg.mode = 1#2 ∧ d = false ∧ h = false then false else k.dotHeld
     let u := s.withKr { k with dotHeld := held }
     if k.dotMem = true ∨ d = true ∨ held = true then enterDot h u
     else if h = true then enterDash d u
     else endSequence u) := by
  have hm : modeARelease (s.withKr k) d h = decide (s.kcfg.mode = 1#2 ∧ d = false ∧ h = false) := by
    rw [Bool.eq_iff_iff, decide_eq_true_eq]
    simp [modeARelease, and_assoc]
  simp only [decideAfterDash, hm]
  by_cases hc : s.kcfg.mode = 1#2 ∧ d = false ∧ h = false
  · simp [hc, State.withKr]
  · simp only [hc, decide_false, Bool.false_eq_true, if_false, withKr_kr, Bool.or_eq_true, or_assoc]

@[simp] theorem intervalOver_iff (s : State) (len : Nat) :
    intervalOver s len = true ↔ len ≤ s.kr.cnt.toNat + 1 := by simp [intervalOver]

/-- Outside both windows no edge is latched. -/
theorem latchEdges_none {st : Option KeyerState} (h1 : dashWindow st = false) (h2 : dotWindow st = false)
    (d h : Bool) (k : KeyRegs) : latchEdges st d h k = k := by
  simp [latchEdges, h1, h2]

/-- A stopped block's KEY_TICK is refused. -/
theorem keyTick_stopped {s : State} (h : s.run = false) (st : Option KeyerState)
    (rule : Bool → Bool → State → State) : keyTick st rule s = .next (refuse .notRunning s) := by
  rw [keyTick, whenRunning_stopped h]

/-- A running block's KEY_TICK: the samples, the edges, one rule, the samples kept. -/
theorem keyTick_run {s : State} (h : s.run = true) (st : Option KeyerState) (rule : Bool → Bool → State → State) :
    keyTick st rule s = .next
      ((rule s.paddle.dot s.paddle.dash (s.withKr (latchEdges st s.paddle.dot s.paddle.dash s.kr))).withKr
        { (rule s.paddle.dot s.paddle.dash
            (s.withKr (latchEdges st s.paddle.dot s.paddle.dash s.kr))).kr with
          dotPrev := s.paddle.dot, dashPrev := s.paddle.dash }) := by
  rw [keyTick, whenRunning_run h]

/-! ### An interval counts, or ends -/

/-- A dot that is not over counts a tick. -/
theorem ruleSenddot_counts {s : State} (hc : s.kr.cnt.toNat + 1 < dotLen s.kcfg) :
    ruleSenddot s = countTick s := by
  rw [ruleSenddot, if_neg]
  rw [intervalOver_iff]
  omega

/-- A dot ends. -/
theorem ruleSenddot_ends {s : State} (hc : dotLen s.kcfg ≤ s.kr.cnt.toNat + 1) :
    ruleSenddot s = endElement .dotdelay s := by
  rw [ruleSenddot, if_pos]
  rw [intervalOver_iff]
  exact hc

/-- A dash that is not over counts a tick. -/
theorem ruleSenddash_counts {s : State} (hc : s.kr.cnt.toNat + 1 < dashLen s.kcfg) :
    ruleSenddash s = countTick s := by
  rw [ruleSenddash, if_neg]
  rw [intervalOver_iff]
  omega

/-- A dash ends. -/
theorem ruleSenddash_ends {s : State} (hc : dashLen s.kcfg ≤ s.kr.cnt.toNat + 1) :
    ruleSenddash s = endElement .dashdelay s := by
  rw [ruleSenddash, if_pos]
  rw [intervalOver_iff]
  exact hc

/-- The space after a dot that is not over counts a tick. -/
theorem ruleDotdelay_counts {s : State} (d h : Bool) (hc : s.kr.cnt.toNat + 1 < dotLen s.kcfg) :
    ruleDotdelay d h s = countTick s := by
  rw [ruleDotdelay, if_neg]
  rw [intervalOver_iff]
  omega

/-- The space after a dot ends. -/
theorem ruleDotdelay_ends {s : State} (d h : Bool) (hc : dotLen s.kcfg ≤ s.kr.cnt.toNat + 1) :
    ruleDotdelay d h s = decideAfterDot d h s := by
  rw [ruleDotdelay, if_pos]
  rw [intervalOver_iff]
  exact hc

/-- The space after a dash that is not over counts a tick. -/
theorem ruleDashdelay_counts {s : State} (d h : Bool) (hc : s.kr.cnt.toNat + 1 < dotLen s.kcfg) :
    ruleDashdelay d h s = countTick s := by
  rw [ruleDashdelay, if_neg]
  rw [intervalOver_iff]
  omega

/-- The space after a dash ends. -/
theorem ruleDashdelay_ends {s : State} (d h : Bool) (hc : dotLen s.kcfg ≤ s.kr.cnt.toNat + 1) :
    ruleDashdelay d h s = decideAfterDash d h s := by
  rw [ruleDashdelay, if_pos]
  rw [intervalOver_iff]
  exact hc

/-- The letter space that is not over counts a tick. -/
theorem ruleLetterspace_counts {s : State} (d h : Bool) (hc : s.kr.cnt.toNat + 1 < 2 * dotLen s.kcfg) :
    ruleLetterspace d h s = countTick s := by
  rw [ruleLetterspace, if_neg]
  rw [intervalOver_iff]
  omega

/-- The letter space ends. -/
theorem ruleLetterspace_ends {s : State} (d h : Bool) (hc : 2 * dotLen s.kcfg ≤ s.kr.cnt.toNat + 1) :
    ruleLetterspace d h s = decideAfterLetter d h s := by
  rw [ruleLetterspace, if_pos]
  rw [intervalOver_iff]
  exact hc

/-! ### EXITLOOP and the unrecognised state -/

/-- EXITLOOP counts the hang time down, and at zero drops the transmit request and returns to CHECK. -/
theorem ruleExitloop_withKr (s : State) (k : KeyRegs) : ruleExitloop (s.withKr k) =
    if k.cwvox = 0#16 then
      { s with kr := { k with txReq := false, ks := s.par.ksCode.check },
               trace := s.trace ++ (if k.txReq then [.moxOff] else []) }
    else s.withKr { k with cwvox := k.cwvox - 1#16 } := by
  by_cases h : k.cwvox = 0#16
  · rw [if_pos h]
    obtain ⟨ks, cnt, cwvox, key, txReq, a, b, x, d, e, f⟩ := k
    cases txReq <;> simp_all [ruleExitloop, toKeyerState, State.withKr, State.emit, ksCodeOf]
  · have hpos : 0 < k.cwvox.toNat := by
      rcases Nat.eq_zero_or_pos k.cwvox.toNat with h0 | h0
      · exact absurd (BitVec.eq_of_toNat_eq (by simpa using h0)) h
      · exact h0
    rw [if_neg h, ruleExitloop, if_pos (by exact hpos)]
    rfl

/-- The unrecognised state: reported, the key forced up, EXITLOOP next. -/
theorem ruleUnknown_withKr (s : State) (k : KeyRegs) : ruleUnknown (s.withKr k) =
    { s with
      kr := if k.key then { k with key := false, cwvox := s.kcfg.hang.setWidth 16, ks := s.par.ksCode.exitloop }
            else { k with ks := s.par.ksCode.exitloop },
      trace := s.trace ++ (if k.key then [.unknownKeyerState k.ks, .keyUp] else [.unknownKeyerState k.ks]) } := by
  obtain ⟨ks, cnt, cwvox, key, txReq, a, b, x, d, e, f⟩ := k
  cases key <;> simp [ruleUnknown, raise, keyUp, toKeyerState, State.withKr, State.emit, ksCodeOf]

/-! ### Frames -/

/-- `t` differs from `s` in the keyer's registers and in events appended to the trace, at most. -/
def KeyFrame (s t : State) : Prop :=
  ∃ k es, t = { s with kr := k, trace := s.trace ++ es }

theorem KeyFrame.refl (s : State) : KeyFrame s s := ⟨s.kr, [], by simp⟩

theorem KeyFrame.trans {s t u : State} (h : KeyFrame s t) (h' : KeyFrame t u) : KeyFrame s u := by
  obtain ⟨k, es, rfl⟩ := h
  obtain ⟨k', es', rfl⟩ := h'
  exact ⟨k', es ++ es', by simp⟩

theorem KeyFrame.withKr (s : State) (k : KeyRegs) : KeyFrame s (s.withKr k) := ⟨k, [], by simp [State.withKr]⟩

theorem KeyFrame.toKeyerState (st : KeyerState) (s : State) : KeyFrame s (toKeyerState st s) :=
  KeyFrame.withKr s _

theorem KeyFrame.keyUp (s : State) : KeyFrame s (keyUp s) := ⟨_, [.keyUp], rfl⟩

theorem KeyFrame.keyDown (s : State) : KeyFrame s (keyDown s) := by
  cases h : s.kr.key
  · rw [keyDown_up h]
    exact ⟨_, _, rfl⟩
  · rw [keyDown_down h]
    exact KeyFrame.refl s

theorem KeyFrame.enterDot (b : Bool) (s : State) : KeyFrame s (enterDot b s) :=
  (KeyFrame.withKr s _).trans ((KeyFrame.keyDown _).trans ((KeyFrame.withKr _ _).trans (KeyFrame.toKeyerState _ _)))

theorem KeyFrame.enterDash (b : Bool) (s : State) : KeyFrame s (enterDash b s) :=
  (KeyFrame.withKr s _).trans ((KeyFrame.keyDown _).trans ((KeyFrame.withKr _ _).trans (KeyFrame.toKeyerState _ _)))

theorem KeyFrame.enterTied (d h : Bool) (s : State) : KeyFrame s (enterTied d h s) := by
  unfold Machine.enterTied
  split
  · exact KeyFrame.enterDash d s
  · exact KeyFrame.enterDot h s

theorem KeyFrame.idle (s : State) : KeyFrame s (idle s) := by
  unfold Machine.idle
  split
  · exact KeyFrame.toKeyerState _ s
  · exact KeyFrame.refl s

theorem KeyFrame.countTick (s : State) : KeyFrame s (countTick s) := KeyFrame.withKr s _

theorem KeyFrame.endElement (st : KeyerState) (s : State) : KeyFrame s (endElement st s) := ⟨_, [.keyUp], rfl⟩

theorem KeyFrame.endSequence (s : State) : KeyFrame s (endSequence s) := by
  unfold Machine.endSequence
  split
  · exact KeyFrame.withKr s { s.kr with dotMem := false, dashMem := false, cnt := 0#16, ks := s.par.ksCode.letterspace }
  · exact KeyFrame.toKeyerState _ s

theorem KeyFrame.ruleCheck (d h : Bool) (s : State) : KeyFrame s (ruleCheck d h s) := by
  unfold Machine.ruleCheck
  simp only
  repeat' split
  all_goals first
    | exact KeyFrame.refl s
    | exact KeyFrame.keyUp s
    | exact KeyFrame.keyDown s
    | exact KeyFrame.enterDot h s
    | exact KeyFrame.enterDash d s
    | exact KeyFrame.enterTied d h s
    | exact KeyFrame.idle s

theorem KeyFrame.ruleSenddot (s : State) : KeyFrame s (ruleSenddot s) := by
  unfold Machine.ruleSenddot
  split
  · exact KeyFrame.endElement _ s
  · exact KeyFrame.countTick s

theorem KeyFrame.ruleSenddash (s : State) : KeyFrame s (ruleSenddash s) := by
  unfold Machine.ruleSenddash
  split
  · exact KeyFrame.endElement _ s
  · exact KeyFrame.countTick s

theorem KeyFrame.decideAfterDot (d h : Bool) (s : State) : KeyFrame s (decideAfterDot d h s) := by
  unfold Machine.decideAfterDot
  refine KeyFrame.trans (t := if modeARelease s d h then s.withKr { s.kr with dashHeld := false } else s) ?_ ?_
  · split
    · exact KeyFrame.withKr s _
    · exact KeyFrame.refl s
  · simp only
    generalize (if modeARelease s d h then s.withKr { s.kr with dashHeld := false } else s) = u
    split
    · exact KeyFrame.enterDash d u
    · split
      · exact KeyFrame.enterDot h u
      · exact KeyFrame.endSequence u

theorem KeyFrame.decideAfterDash (d h : Bool) (s : State) : KeyFrame s (decideAfterDash d h s) := by
  unfold Machine.decideAfterDash
  refine KeyFrame.trans (t := if modeARelease s d h then s.withKr { s.kr with dotHeld := false } else s) ?_ ?_
  · split
    · exact KeyFrame.withKr s _
    · exact KeyFrame.refl s
  · simp only
    generalize (if modeARelease s d h then s.withKr { s.kr with dotHeld := false } else s) = u
    split
    · exact KeyFrame.enterDot h u
    · split
      · exact KeyFrame.enterDash d u
      · exact KeyFrame.endSequence u

theorem KeyFrame.ruleDotdelay (d h : Bool) (s : State) : KeyFrame s (ruleDotdelay d h s) := by
  unfold Machine.ruleDotdelay
  split
  · exact KeyFrame.decideAfterDot d h s
  · exact KeyFrame.countTick s

theorem KeyFrame.ruleDashdelay (d h : Bool) (s : State) : KeyFrame s (ruleDashdelay d h s) := by
  unfold Machine.ruleDashdelay
  split
  · exact KeyFrame.decideAfterDash d h s
  · exact KeyFrame.countTick s

theorem KeyFrame.ruleLetterspace (d h : Bool) (s : State) : KeyFrame s (ruleLetterspace d h s) := by
  unfold Machine.ruleLetterspace Machine.decideAfterLetter
  repeat' split
  all_goals first
    | exact KeyFrame.enterTied d h s
    | exact KeyFrame.enterDash d s
    | exact KeyFrame.enterDot h s
    | exact KeyFrame.toKeyerState _ s
    | exact KeyFrame.countTick s

theorem KeyFrame.ruleExitloop (s : State) : KeyFrame s (ruleExitloop s) := by
  unfold Machine.ruleExitloop
  split
  · exact KeyFrame.withKr s _
  · split
    · exact ⟨_, [.moxOff], rfl⟩
    · exact KeyFrame.toKeyerState _ s

/-- Reporting an unrecognised state adds the event. -/
theorem KeyFrame.raiseUnknown (x : BitVec 3) (s : State) : KeyFrame s (raise (.unknownKeyerState x) s) :=
  ⟨s.kr, [.unknownKeyerState x], rfl⟩

theorem KeyFrame.ruleUnknown (s : State) : KeyFrame s (ruleUnknown s) := by
  unfold Machine.ruleUnknown
  refine (KeyFrame.raiseUnknown s.kr.ks s).trans ?_
  simp only
  generalize raise (.unknownKeyerState s.kr.ks) s = u
  refine KeyFrame.trans ?_ (KeyFrame.toKeyerState _ _)
  split
  · exact KeyFrame.keyUp u
  · exact KeyFrame.refl u

/-- A KEY_TICK whose rule has the frame has it. -/
theorem KeyFrame.keyTick {s t : State} {st : Option KeyerState} {rule : Bool → Bool → State → State}
    (hr : ∀ d h u, KeyFrame u (rule d h u)) (h : Machine.keyTick st rule s = .next t) : KeyFrame s t := by
  rw [Machine.keyTick, whenRunning_eq] at h
  injection h with h
  subst h
  split
  · exact (KeyFrame.withKr s _).trans ((hr _ _ _).trans (KeyFrame.withKr _ _))
  · exact ⟨s.kr, [.refused .notRunning], rfl⟩

end Sys2Proof.Machine
end

