-- ==== Sys2Proof/Laws/PerInstr.lean ====
section
/-! SUPPORT. Statements made per instruction, one lemma per constructor of `Instr`. -/

namespace Sys2Proof.Laws.IssuingAgent

/-- The operation an instruction is presented as is issued by the tick agent exactly when the
instruction is a row of KEY_TICK, and names its operands itself (R11, R130, R279). -/
def Statement (i : Instr) : Prop :=
  (Sys2Proof.encode i).explicit = true ∧ ((Sys2Proof.encode i).agent = .tick ↔ Sys2Proof.encode i = .keyTick)

theorem decodeOk (f : Vector Byte 512) (now : Nat) : Statement (.decodeOk f now) := by
  simp [Statement, Sys2Proof.encode, Request.explicit, Request.agent]

theorem decodeSynclost (f : Vector Byte 512) (now : Nat) : Statement (.decodeSynclost f now) := by
  simp [Statement, Sys2Proof.encode, Request.explicit, Request.agent]

theorem encode (c : Vector Byte 5) (p : Vector Byte 504) : Statement (.encode c p) := by
  simp [Statement, Sys2Proof.encode, Request.explicit, Request.agent]

theorem txWriteHdr (o : Vector Byte 512) : Statement (.txWriteHdr o) := by
  simp [Statement, Sys2Proof.encode, Request.explicit, Request.agent]

theorem txWriteNohdr (o : Vector Byte 512) : Statement (.txWriteNohdr o) := by
  simp [Statement, Sys2Proof.encode, Request.explicit, Request.agent]

theorem gapCheck (q : BitVec 32) : Statement (.gapCheck q) := by
  simp [Statement, Sys2Proof.encode, Request.explicit, Request.agent]

theorem start : Statement .start := by
  simp [Statement, Sys2Proof.encode, Request.explicit, Request.agent]

theorem stop : Statement .stop := by
  simp [Statement, Sys2Proof.encode, Request.explicit, Request.agent]

theorem cfgWrite (reg : CfgReg) (v : Rat) : Statement (.cfgWrite reg v) := by
  simp [Statement, Sys2Proof.encode, Request.explicit, Request.agent]

theorem hwcmdStop : Statement .hwcmdStop := by
  simp [Statement, Sys2Proof.encode, Request.explicit, Request.agent]

theorem hwcmdStart : Statement .hwcmdStart := by
  simp [Statement, Sys2Proof.encode, Request.explicit, Request.agent]

theorem hwcmdStartWb : Statement .hwcmdStartWb := by
  simp [Statement, Sys2Proof.encode, Request.explicit, Request.agent]

theorem cc0 : Statement .cc0 := by
  simp [Statement, Sys2Proof.encode, Request.explicit, Request.agent]

theorem cc1 : Statement .cc1 := by
  simp [Statement, Sys2Proof.encode, Request.explicit, Request.agent]

theorem cc2 : Statement .cc2 := by
  simp [Statement, Sys2Proof.encode, Request.explicit, Request.agent]

theorem cc3 : Statement .cc3 := by
  simp [Statement, Sys2Proof.encode, Request.explicit, Request.agent]

theorem cc4 : Statement .cc4 := by
  simp [Statement, Sys2Proof.encode, Request.explicit, Request.agent]

theorem cc5 : Statement .cc5 := by
  simp [Statement, Sys2Proof.encode, Request.explicit, Request.agent]

theorem cc6 : Statement .cc6 := by
  simp [Statement, Sys2Proof.encode, Request.explicit, Request.agent]

theorem cc7 : Statement .cc7 := by
  simp [Statement, Sys2Proof.encode, Request.explicit, Request.agent]

theorem ksCheck : Statement .ksCheck := by
  simp [Statement, Sys2Proof.encode, Request.explicit, Request.agent]

theorem ksSenddot : Statement .ksSenddot := by
  simp [Statement, Sys2Proof.encode, Request.explicit, Request.agent]

theorem ksSenddash : Statement .ksSenddash := by
  simp [Statement, Sys2Proof.encode, Request.explicit, Request.agent]

theorem ksDotdelay : Statement .ksDotdelay := by
  simp [Statement, Sys2Proof.encode, Request.explicit, Request.agent]

theorem ksDashdelay : Statement .ksDashdelay := by
  simp [Statement, Sys2Proof.encode, Request.explicit, Request.agent]

theorem ksLetterspace : Statement .ksLetterspace := by
  simp [Statement, Sys2Proof.encode, Request.explicit, Request.agent]

theorem ksExitloop : Statement .ksExitloop := by
  simp [Statement, Sys2Proof.encode, Request.explicit, Request.agent]

theorem ksUnknown : Statement .ksUnknown := by
  simp [Statement, Sys2Proof.encode, Request.explicit, Request.agent]

end Sys2Proof.Laws.IssuingAgent
end

