-- ==== Sys2Proof/Laws/Run.lean ====
section
/-! SUPPORT. Runs of several operations: one after another, and the operations to come that a performed one
leaves. -/

namespace Sys2Proof.Machine

@[simp] theorem run_zero (s : State) : core.run 0 s = .next s := rfl

/-- A run of one step more, on any machine. -/
theorem run_succ (M : Host.Core) (k : Nat) (s : M.State) : M.run (k + 1) s =
    match M.step s with
    | .next t => M.run k t
    | .fault r => .fault r
    | .refused r => .refused r := by
  rw [Host.Core.run] <;> cases M.step s <;> rfl

/-- A run whose first step goes on. -/
theorem run_succ_of_step {s t : State} (h : step s = .next t) (k : Nat) : core.run (k + 1) s = core.run k t := by
  have hc : core.step s = .next t := h
  exact (run_succ core k s).trans (by rw [hc])

/-- A run whose first step does not go on stops there. -/
theorem run_succ_refused {s : State} {r : Refusal} (h : step s = .refused r) (k : Nat) :
    core.run (k + 1) s = .refused r := by
  have hc : core.step s = .refused r := h
  exact (run_succ core k s).trans (by rw [hc])

/-- A run whose first part goes on continues from where that part ended. -/
theorem run_add {s t : State} {j : Nat} (h : core.run j s = .next t) (k : Nat) :
    core.run (j + k) s = core.run k t := by
  induction j generalizing s with
  | zero =>
    injection h with h
    subst h
    rw [Nat.zero_add]
  | succ j ih =>
    cases hx : step s with
    | next u =>
      rw [run_succ_of_step hx] at h
      rw [show j + 1 + k = (j + k) + 1 by omega, run_succ_of_step hx]
      exact ih h
    | fault r => exact nomatch r
    | refused r =>
      rw [run_succ_refused hx] at h
      cases h

/-- One more operation at the end of a run. -/
theorem run_succ_last {s t : State} {k : Nat} (h : core.run k s = .next t) {u : State} (hu : step t = .next u) :
    core.run (k + 1) s = .next u := by
  rw [run_add h, run_succ_of_step hu]
  rfl

/-- The walk leaves everything but the decoder's registers and the trace alone. -/
theorem acceptFrame_script (f : Vector Byte 512) (s : State) : (acceptFrame f s).script = s.script := by
  obtain ⟨-, -, -, d, es, h⟩ := DecFrame.walkPeriods f s.cfg.nrx.toNat s.cfg.micGain
    (periodCount s.cfg.nrx.toNat) (takeStatus f s)
  rw [acceptFrame, h]
  rfl

end Sys2Proof.Machine
end

