-- ==== Sys2Proof/Machine/F64.lean ====
section
/-! DEFINITION. What the two parameters mean that no rule of the block reads: `F64` (R6, R10, D7), the
rounding of a rational to a binary floating-point value (log entry 19), and `TICK_MS` (R6, R315), the
time a number of ticks takes (log entry 22). A host applies them, where it compares a sample with a
recorded double or a count of ticks with a clock. -/

namespace Sys2Proof.Machine

/-- How a magnitude is rounded, once the sign is known. -/
inductive MagnitudeRounding where
  | nearestEven | nearestAway | down | up
deriving DecidableEq, Repr

/-- The rounding of the magnitude of a value: toward an infinity is up on its side of zero, down on the
other. -/
def magnitudeRounding (negative : Bool) : Rounding → MagnitudeRounding
  | .nearestEven => .nearestEven
  | .nearestAway => .nearestAway
  | .towardZero => .down
  | .towardPositive => if negative then .down else .up
  | .towardNegative => if negative then .up else .down

/-- `floor(log2(n / d))` for positive `n` and `d`. -/
def log2Quot (n d : Nat) : Int :=
  let e : Int := (Nat.log2 n : Int) - (Nat.log2 d : Int)
  let fits : Bool := if 0 ≤ e then decide (d * 2 ^ e.toNat ≤ n) else decide (d ≤ n * 2 ^ (-e).toNat)
  if fits then e else e - 1

/-- `n / d` rounded to an integer. -/
def roundQuot (m : MagnitudeRounding) (n d : Nat) : Nat :=
  let k := n / d
  let r := n % d
  let raise : Bool := match m with
    | .nearestEven => decide (d < 2 * r ∨ (2 * r = d ∧ k % 2 = 1))
    | .nearestAway => decide (d ≤ 2 * r)
    | .down => false
    | .up => decide (r ≠ 0)
  if raise then k + 1 else k

/-- The exponent and fraction bits of `n / d`, both positive, in a format: with the exponent `e` of the
leading bit, at least the least normal one, the significand is `n / d` in units of `2^(e - fracBits)`.
Exponent and significand add up, so that a carry out of the significand raises the exponent. A result
past the largest finite number is the infinity, or that number where magnitudes are rounded down. -/
def f64Magnitude (fmt : F64Format) (m : MagnitudeRounding) (n d : Nat) : Nat :=
  let bias : Int := 2 ^ (fmt.expBits - 1) - 1
  let e : Int := max (log2Quot n d) (1 - bias)
  let sh : Int := fmt.fracBits - e
  let k := if 0 ≤ sh then roundQuot m (n * 2 ^ sh.toNat) d else roundQuot m n (d * 2 ^ (-sh).toNat)
  let infinity := (2 ^ fmt.expBits - 1) * 2 ^ fmt.fracBits
  min ((e + bias - 1).toNat * 2 ^ fmt.fracBits + k) (if m = .down then infinity - 1 else infinity)

/-- `F64(q)` as bits: sign, exponent, fraction (R6, R10). The default format gives the 64 bits of the
IEEE 754 binary64 nearest `q`, ties to even. -/
def f64 (fmt : F64Format) (q : Rat) : BitVec fmt.width :=
  let negative : Bool := decide (q.num < 0)
  if q.num = 0 then 0
  else BitVec.ofNat fmt.width ((if negative then 2 ^ (fmt.expBits + fmt.fracBits) else 0) +
    f64Magnitude fmt (magnitudeRounding negative fmt.rounding) q.num.natAbs q.den)

/-- The double of cell `i` of `IBUF[r]`, `none` while the cell holds no value (R148). -/
def iDouble (s : State) (r i : Nat) : Option (BitVec s.par.f64.width) := (iCell s r i).map (f64 s.par.f64)

/-- The double of cell `i` of `QBUF[r]` (R148). -/
def qDouble (s : State) (r i : Nat) : Option (BitVec s.par.f64.width) := (qCell s r i).map (f64 s.par.f64)

/-- The double of cell `i` of `MICBUF` (R149). -/
def micDouble (s : State) (i : Nat) : Option (BitVec s.par.f64.width) := (micCell s i).map (f64 s.par.f64)

/-- The milliseconds that `n` KEY_TICKs take: lengths are counted in ticks, so real durations scale with
`TICK_MS` (R315). -/
def ticksMs (s : State) (n : Nat) : Rat := n * s.par.tickMs

end Sys2Proof.Machine
end

