-- ==== Sys2Proof/Machine/Script.lean ====
section
/-! DEFINITION. The pseudo-operations of the script notation (R131), as functions that build the lines they
expand to. -/

namespace Sys2Proof.Machine

/-- `TICK n`. -/
def ticks (n : Nat) : List Request := List.replicate n .keyTick

/-- `PADDLE dot=<a> dash=<b>`: two separate operations, the dot first. -/
def paddleLines (dot dash : Nat) : List Request :=
  [.cfgWrite .paddleDot (dot : Rat), .cfgWrite .paddleDash (dash : Rat)]

/-- `zeros(n)`. -/
def zeroBytes (n : Nat) : List Byte := List.replicate n 0#8

/-- `ramp(n)`: the bytes 0, 1, ..., n-1 modulo 256. -/
def rampBytes (n : Nat) : List Byte := (List.range n).map fun i => BitVec.ofNat 8 i

/-- `SENDFRAME <payload>`: CCSTEP, ENCODE CC, TXWRITE LAST. -/
def sendFrame (payload : List Byte) : List Request :=
  [.ccStep, .encode .cc payload, .txWrite .last]

/-- One sample period of `frame(N; st; periods)`: the pairs (I, Q) of the receivers and the mic
value, as signed integers. -/
structure SamplePeriod where
  iq : List (Int × Int)
  mic : Int
deriving DecidableEq, Repr

/-- A signed integer as `n` bytes of two's complement, most significant first (R105 in reverse). -/
def signedBytes (n : Nat) (v : Int) : List Byte :=
  (List.range n).map fun i => BitVec.ofNat 8 ((BitVec.ofInt (8 * n) v).toNat / 2 ^ (8 * (n - 1 - i)))

/-- The bytes of one sample period. -/
def periodToBytes (x : SamplePeriod) : List Byte :=
  (x.iq.flatMap fun iq => signedBytes 3 iq.1 ++ signedBytes 3 iq.2) ++ signedBytes 2 x.mic

/-- `frame(N; st; periods)`: SYNC, the status bytes, the periods, then zero bytes to 512. -/
def buildFrame (p : Params) (st : List Byte) (periods : List SamplePeriod) : Vector Byte 512 :=
  padTo 512 (p.sync.toList ++ st ++ periods.flatMap periodToBytes)

end Sys2Proof.Machine
end

