-- ==== Sys2Proof/Tests/Slice0.lean ====
section
/-! SUPPORT. Tests of one operation each, on small states, and a witness of the hypotheses of every
statement. Every expected value is the spec's: the vector of spec/95_test_vectors.md named beside it, or the
table of spec/30_encoding.md. -/

namespace Sys2Proof.Tests

-- One theorem at a time: every evaluation in parallel asks for a stack of its own.
set_option Elab.async false

open Machine

/-! ### Small states and how an outcome is read -/

/-- The outcome is a next state with the property. -/
def ok (o : Host.Outcome State Fault Refusal) (p : State → Bool) : Bool :=
  match o with
  | .next t => p t
  | .fault _ => false
  | .refused _ => false

/-- The outcome is the refusal of a presentation, for this reason. -/
def undecodable (o : Host.Outcome State Fault Refusal) (why : Reject) : Bool :=
  match o with
  | .next _ => false
  | .fault _ => false
  | .refused r => r == .undecodable why

/-- Power-on, then START. -/
def run0 : State := startBlock State.reset

/-- The same with `n` receivers configured before START. -/
def runN (n : BitVec 5) : State := startBlock { State.reset with cfg := ⟨n, 1⟩ }

/-- Speed 60 and the given mode, running, with the paddles at `d` and `h` and the keyer registers `k`
(VK1). -/
def keyer (mode : BitVec 2) (d h : Bool) (k : KeyRegs) : State :=
  { run0 with
    kcfg := { run0.kcfg with speed := 60#6, mode := mode }
    paddle := ⟨false, h, d⟩
    kr := k }

/-- The keyer registers of VK1 with `ks`, `cnt`, `key` and `tx_req` given and every other one 0. -/
def kregs (ks : BitVec 3) (cnt : BitVec 16) (key txReq : Bool) : KeyRegs :=
  { run0.kr with ks := ks, cnt := cnt, key := key, txReq := txReq }

/-- A half-frame of bytes 0, 1, 2, then zero bytes. -/
def frame3 (a b x : Byte) : Vector Byte 512 := padTo 512 [a, b, x]

/-- The frame of VD5. -/
def frameVD5 : Vector Byte 512 := padTo 512
  [0x7F#8, 0x7F#8, 0x7F#8, 0x06#8, 0x00#8, 0x21#8, 0x00#8, 0x1B#8,
   0x7F#8, 0xFF#8, 0xFF#8, 0x80#8, 0x00#8, 0x00#8, 0x00#8, 0x64#8,
   0x00#8, 0x00#8, 0x01#8, 0xFF#8, 0xFF#8, 0xFF#8, 0xFF#8, 0xFF#8]

/-- The frame of VD7: byte k is k modulo 256 from byte 8 on. -/
def frameVD7 : Vector Byte 512 := padTo 512
  ([0x7F#8, 0x7F#8, 0x7F#8, 0x00#8, 0x00#8, 0x00#8, 0x00#8, 0x00#8] ++ (rampBytes 512).drop 8)

/-- A context after reset. -/
def ctx0 : Context := tableWordContext 0#3

/-- The row an operation is decoded to, by name; `none` where it is rejected. -/
def rowOf : Except Reject Instr → Option String
  | .error _ => none
  | .ok (.decodeOk _ _) => some "DECODE.OK"
  | .ok (.decodeSynclost _ _) => some "DECODE.SYNCLOST"
  | .ok (.encode _ _) => some "ENCODE"
  | .ok (.txWriteHdr _) => some "TX_WRITE.HDR"
  | .ok (.txWriteNohdr _) => some "TX_WRITE.NOHDR"
  | .ok _ => some "another"

/-- Why a presentation is rejected. -/
def whyNot : Except Reject Instr → Option Reject
  | .error e => some e
  | .ok _ => none

/-! ### WellFormed refuses what is ill-formed -/

theorem test_wellFormed_decodeOk_with_bad_sync :
    wellFormed defaultParams (.decodeOk (frame3 0x7E#8 0x7F#8 0x7F#8) 0) = false := by decide +kernel
theorem test_wellFormed_decodeSynclost_with_good_sync :
    wellFormed defaultParams (.decodeSynclost (frame3 0x7F#8 0x7F#8 0x7F#8) 0) = false := by decide +kernel
theorem test_wellFormed_decodeOk_with_sync :
    wellFormed defaultParams (.decodeOk frameVD5 0) = true := by decide +kernel

/-! ### Decoding, from the selectors of spec/opcode_table.json and tables T-CC and T-KS -/

theorem test_decode_sync :
    rowOf (decode ctx0 (.decode (.bytes frameVD5.toList) 5)) = some "DECODE.OK" := by decide +kernel
theorem test_decode_synclost :
    rowOf (decode ctx0 (.decode (.bytes (0x7F#8 :: 0x00#8 :: 0x7F#8 :: zeroBytes 509)) 5)) =
      some "DECODE.SYNCLOST" := by decide +kernel
theorem test_decode_encode :
    rowOf (decode ctx0 (.encode (.bytes [0x01#8, 0x02#8, 0x03#8, 0x04#8, 0x05#8]) (rampBytes 504))) =
      some "ENCODE" := by decide +kernel
theorem test_decode_encode_cc :
    rowOf (decode ctx0 (.encode .cc (zeroBytes 504))) = some "ENCODE" := by decide +kernel
theorem test_decode_tx_hdr :
    rowOf (decode ctx0 (.txWrite (.bytes (zeroBytes 512)))) = some "TX_WRITE.HDR" := by decide +kernel
theorem test_decode_tx_nohdr :
    rowOf (decode { ctx0 with hdrPhase := true } (.txWrite (.bytes (zeroBytes 512)))) =
      some "TX_WRITE.NOHDR" := by decide +kernel
theorem test_decode_gap : decode ctx0 (.gapCheck 0xFFFFFFFF) = .ok (.gapCheck 0xFFFFFFFF#32) := by rfl
theorem test_decode_hwcmd : [HwKind.stop, .start, .startWb].map (fun k => (decode ctx0 (.hwcmd k)).toOption) =
    [some .hwcmdStop, some .hwcmdStart, some .hwcmdStartWb] := by decide +kernel
theorem test_decode_start : decode ctx0 .start = .ok .start := by rfl
theorem test_decode_stop : decode ctx0 .stop = .ok .stop := by rfl
theorem test_decode_cfg : decode ctx0 (.cfgWrite .speed 60) = .ok (.cfgWrite .speed 60) := by rfl
theorem test_decode_cc_by_rr :
    [0#3, 1#3, 2#3, 3#3, 4#3, 5#3, 6#3, 7#3].map (fun rr => (decode { ctx0 with rr := rr } .ccStep).toOption) =
      [some .cc0, some .cc1, some .cc2, some .cc3, some .cc4, some .cc5, some .cc6, some .cc7] := by
  decide +kernel
theorem test_decode_tick_by_ks :
    [0#3, 1#3, 2#3, 3#3, 4#3, 5#3, 6#3, 7#3].map (fun ks => (decode { ctx0 with ks := ks } .keyTick).toOption) =
      [some .ksCheck, some .ksSenddot, some .ksSenddash, some .ksDotdelay, some .ksDashdelay,
       some .ksLetterspace, some .ksExitloop, some .ksUnknown] := by decide +kernel

/-- What cannot be presented is rejected by name (R73, D41, R130). -/
theorem test_decode_rejects :
    whyNot (decode ctx0 (.decode (.bytes (zeroBytes 511)) 0)) = some (.badFrameLength 511) ∧
    whyNot (decode ctx0 (.txWrite (.bytes (zeroBytes 513)))) = some (.badFrameLength 513) ∧
    whyNot (decode ctx0 (.encode .cc (zeroBytes 503))) = some (.badPayloadLength 503) ∧
    whyNot (decode ctx0 (.encode (.bytes (zeroBytes 4)) (zeroBytes 504))) = some (.badControlLength 4) ∧
    whyNot (decode ctx0 (.gapCheck (2 ^ 32))) = some (.badSequence (2 ^ 32)) ∧
    whyNot (decode ctx0 (.txWrite .last)) = some .noPrecedingEncode := by decide +kernel

/-! ### DECODE -/

/-- VD5: the events, the status and the paddles, the samples of periods 0 and 1, the index. -/
theorem test_decodeOk_vd5 : ok (exec (.decodeOk frameVD5 5) run0) (fun t =>
    t.trace.length == 64 &&
    t.trace.take 4 == [.status #v[0x06#8, 0x00#8, 0x21#8, 0x00#8, 0x1B#8], .mic 100, .mic (-1), .mic 0] &&
    t.paddle == ⟨false, true, true⟩ && t.dec.idx == 63 &&
    iCell t 0 0 == some 1 && qCell t 0 0 == some (-8388608 / 8388607) && micCell t 0 == some 100 &&
    iCell t 0 1 == some (1 / 8388607) && qCell t 0 1 == some (-1 / 8388607) && micCell t 1 == some (-1) &&
    iCell t 0 62 == some 0 && iCell t 0 63 == none) = true := by decide +kernel

/-- VD7: twenty receivers, four periods. -/
theorem test_decodeOk_vd7 : ok (exec (.decodeOk frameVD7 0) (runN 20#5)) (fun t =>
    t.trace.length == 5 && t.trace.getLast? == some (.mic (-4369)) && t.dec.idx == 4 &&
    iCell t 0 0 == some (526602 / 8388607) && iCell t 19 3 == some (-1512982 / 8388607) &&
    qCell t 19 3 == some (-1315603 / 8388607)) = true := by decide +kernel

/-- VD1, VD2: the first bad SYNC is reported; one 10 ms after a report is not, one 11 ms after is. -/
theorem test_decodeSynclost_reports : ok (exec (.decodeSynclost (frame3 0x7F#8 0x00#8 0x7F#8) 100) run0) (fun t =>
    t.trace == [.syncLost 100] && t.dec.idx == 0 &&
    ok (exec (.decodeSynclost (frame3 0#8 0#8 0#8) 110) t) (fun u => u.trace == [.syncLost 100]) &&
    ok (exec (.decodeSynclost (frame3 0#8 0#8 0#8) 111) t) (fun u => u.trace == [.syncLost 100, .syncLost 111])) =
    true := by decide +kernel

/-- VD8: stopped. -/
theorem test_decode_stopped : ok (exec (.decodeSynclost (frame3 0#8 0#8 0#8) 0) State.reset) (fun t =>
    t.trace == [.refused .notRunning] && !t.dec.syncRepValid) = true := by decide +kernel

/-- VD3: the 24-bit conversion. -/
theorem test_sampleValue_vd3 :
    [[0x00#8, 0x00#8, 0x01#8], [0x7F#8, 0xFF#8, 0xFF#8], [0xFF#8, 0xFF#8, 0xFF#8], [0x80#8, 0x00#8, 0x01#8],
     [0x80#8, 0x00#8, 0x00#8], [0x12#8, 0x34#8, 0x56#8], [0xFE#8, 0xDC#8, 0xBA#8]].map
      (fun l => sampleValue (padTo 512 l) 0) =
    [1 / 8388607, 1, -1 / 8388607, -1, -8388608 / 8388607, 1193046 / 8388607, -74566 / 8388607] := by
  decide +kernel

/-- VD4: the mic conversion with gain 13/50. -/
theorem test_micValue_vd4 :
    [[0x00#8, 0x64#8], [0x7F#8, 0xFF#8], [0x80#8, 0x00#8], [0xFF#8, 0x9C#8]].map
      (fun l => micValue (padTo 512 l) (13 / 50) 0) = [26, 425971 / 50, -212992 / 25, -26] := by
  decide +kernel

/-- VD3: the doubles of the second, third and sixth row, under the default `F64`. -/
theorem test_f64_vd3 : ([1 / 8388607, 1, -8388608 / 8388607, 0].map (f64 defaultF64) : List (BitVec 64)) =
    [0x3E80000020000040#64, 0x3FF0000000000000#64, 0xBFF0000020000040#64, 0#64] := by decide +kernel

/-- Other values of `F64`, from IEEE 754: one tenth in binary32, and one third in binary64 rounded up and
toward zero, whose neighbours are 3FD5555555555555 and 3FD5555555555556. -/
theorem test_f64_overridden : f64 ⟨8, 23, .nearestEven⟩ (1 / 10) = 0x3DCCCCCD#32 ∧
    f64 ⟨11, 52, .towardPositive⟩ (1 / 3) = 0x3FD5555555555556#64 ∧
    f64 ⟨11, 52, .towardZero⟩ (-1 / 3) = 0xBFD5555555555555#64 := by decide +kernel

/-- R315: with `TICK_MS` at 1 a length in ticks is its length in milliseconds; with 1/2 it is half. -/
theorem test_ticksMs_scales : ticksMs run0 60 = 60 ∧
    ticksMs (State.resetWith { defaultParams with tickMs := 1 / 2 }) 60 = 30 := by decide +kernel

/-- Table T-ST: `saddr` is bits 7 to 3 of C0; under another `STATUS_LAYOUT` its top bit is elsewhere. -/
theorem test_statusAddr_slice :
    let s := State.resetWith { defaultParams with statusLayout := ⟨0, 1, 2, 5, 3⟩ }
    statusAddr { run0 with dec := { run0.dec with status := #v[0xD7#8, 0#8, 0#8, 0#8, 0#8] } } = 0x1A#8 ∧
    statusAddr { s with dec := { s.dec with status := #v[0xD7#8, 0#8, 0#8, 0#8, 0#8] } } = 0x02#8 := by
  decide +kernel

/-! ### ENCODE, TX_WRITE, GAP_CHECK, HWCMD -/

/-- VE1, while stopped: one result, no event. -/
theorem test_encode_ve1 : ok (exec (.encode #v[0x01#8, 0x02#8, 0x03#8, 0x04#8, 0x05#8] (padTo 504 (rampBytes 504)))
    State.reset) (fun t => t.trace == [] && t.results.length == 1) = true := by decide +kernel

/-- VE1: bytes 0, 2, 3, 7, 8, 11, 509 and 511 of the result. -/
theorem test_encode_ve1_bytes :
    [0, 2, 3, 7, 8, 11, 509, 511].map (spaceByte (halfFrame defaultParams
      #v[0x01#8, 0x02#8, 0x03#8, 0x04#8, 0x05#8] (padTo 504 (rampBytes 504)))) =
    [0x7F#8, 0x7F#8, 0x01#8, 0x05#8, 0x00#8, 0x03#8, 0xF5#8, 0xF7#8] := by
  simp only [List.map_cons, List.map_nil, spaceByte, getElem_halfFrame]
  decide +kernel

/-- VT1 and VT2: the header, the number after it, and the wrap. -/
theorem test_txWriteHdr_vt2 : ok (exec (.txWriteHdr (frame3 0x7F#8 0x7F#8 0x7F#8))
    { run0 with sq := ⟨false, 0xFFFFFFFF#32, 0#32, false⟩ }) (fun t => t.sq.seq == 0#32 && t.sq.hdrPhase &&
      match t.results with
      | [.datagram d] => d.length == 520 && d.take 9 == [0xEF#8, 0xFE#8, 0x01#8, 0x02#8, 0xFF#8, 0xFF#8, 0xFF#8,
          0xFF#8, 0x7F#8]
      | _ => false) = true := by decide +kernel

/-- VT1: the second write is raw. -/
theorem test_txWriteNohdr_vt1 : ok (exec (.txWriteNohdr (frame3 0x7F#8 0x7F#8 0x7F#8))
    { run0 with sq := ⟨true, 1#32, 0#32, false⟩ }) (fun t => t.sq.seq == 1#32 && !t.sq.hdrPhase &&
      match t.results with
      | [.datagram d] => d.length == 512 && d.take 1 == [0x7F#8]
      | _ => false) = true := by decide +kernel

/-- VG1: 5 after 5, and 0 after 0xFFFFFFFF. -/
theorem test_gapCheck_vg1 :
    ok (exec (.gapCheck 5#32) { run0 with sq := ⟨false, 0#32, 5#32, true⟩ }) (fun t =>
      t.trace == [.sequenceGap 6#32 5#32] && t.sq.lastSeen == 5#32) = true ∧
    ok (exec (.gapCheck 0#32) { run0 with sq := ⟨false, 0#32, 0xFFFFFFFF#32, true⟩ }) (fun t =>
      t.trace == [] && t.sq.lastSeen == 0#32) = true := by decide +kernel
theorem test_gapCheck_first : ok (exec (.gapCheck 7#32) run0) (fun t =>
    t.trace == [] && t.sq.lastSeen == 7#32 && t.sq.lastSeenValid) = true := by decide +kernel

/-- VH1. -/
theorem test_hwcmd_vh1 :
    ok (exec .hwcmdStop State.reset) (fun t => t.results == [.command 0x00#8]) = true ∧
    ok (exec .hwcmdStart run0) (fun t => t.results == [.command 0x01#8]) = true ∧
    ok (exec .hwcmdStartWb run0) (fun t => t.results == [.command 0x03#8]) = true := by decide +kernel

/-! ### CFG_WRITE, START, STOP -/

/-- VC1: which writes are refused. -/
theorem test_cfgWrite_vc1 :
    [(CfgReg.speed, (0 : Rat)), (.speed, 61), (.speed, 60), (.weight, 101), (.weight, 0), (.mode, 3),
     (.hang, 1024), (.nrx, 0), (.nrx, 21), (.nrx, 20), (.drive, 256), (.sidetoneFreq, 4096), (.rxAdc 3, 4),
     (.notConfig "rr", 3)].map
      (fun x => ok (exec (.cfgWrite x.1 x.2) State.reset) (fun t => t.trace == [.refused .illegalValue])) =
    [true, true, false, true, false, true, true, true, true, false, true, true, true, true] := by
  decide +kernel

/-- VC2: the change flag follows a change only. -/
theorem test_cfgWrite_vc2 :
    ok (exec (.cfgWrite (.rxFreq 0) 0) State.reset) (fun t => !(rxAt t 0).freqChanged) = true ∧
    ok (exec (.cfgWrite (.rxFreq 0) 7100000) State.reset) (fun t =>
      (rxAt t 0).freqChanged && (rxAt t 0).freq == 0x006C5660#32 && !(rxAt t 1).freqChanged) = true := by
  decide +kernel

/-- R291: the countdown is loaded; while running nothing happens. -/
theorem test_start : ok (exec .start { State.reset with cfg := ⟨7#5, 1⟩ }) (fun t =>
    t.run && t.ccg.forceAll == 7#5 && t.trace == []) = true := by decide +kernel
theorem test_start_running : ok (exec .start { run0 with sq := ⟨true, 9#32, 0#32, false⟩ }) (fun t =>
    t.sq.seq == 9#32) = true := by decide +kernel

/-- R292, D24: registers reset, configuration and change flags kept, no event. -/
theorem test_stop : ok (exec .stop { run0 with
    sq := ⟨true, 9#32, 4#32, true⟩, kr := kregs 1#3 5#16 true true, tp := { run0.tp with txFreqChanged := true } })
    (fun t => !t.run && t.sq.seq == 0#32 && !t.kr.key && !t.kr.txReq && t.kr.ks == 0#3 &&
      t.tp.txFreqChanged && t.trace == []) = true := by decide +kernel

/-! ### CC_STEP -/

/-- `run0` in round-robin state `rr` with the given transmit parameters. -/
def ccState (rr : BitVec 3) (tp : Tp) : State := { run0 with ccg := { run0.ccg with rr := rr }, tp := tp }

/-- The bytes and the next state, and nothing refused. -/
def sends (b : Vector Byte 5) (rr : BitVec 3) (t : State) : Bool :=
  t.ccg.cc == b && t.ccg.rr == rr && t.trace == []

/-- VCC0a. -/
theorem test_cc0_vcc0a : ok (exec .cc0 { runN 8#5 with
    par := { defaultParams with antRoute := [⟨0, false, 31#5⟩] },
    tp := { Tp.reset with sampleRate := 3#2, clockSrc := 7#3, devPresent := 3#2, modeBit := true,
                          outClass := 127#7, atten := 3#2, duplex := true } })
    (sends #v[0x00#8, 0x7F#8, 0xFF#8, 0xE3#8, 0x3F#8] 1#3) = true := by decide +kernel

/-- VCC0c: nine receivers do not fit the field. -/
theorem test_cc0_vcc0c : ok (exec .cc0 (runN 9#5)) (fun t =>
    t.trace == [.refused .cfgRange] && t.ccg.rr == 0#3) = true := by decide +kernel

/-- VCC1. -/
theorem test_cc1_vcc1 :
    ok (exec .cc1 (ccState 1#3 { Tp.reset with txFreq := 0xFFFFFFFF#32, mox := true, txFreqChanged := true }))
      (fun t => sends #v[0x03#8, 0xFF#8, 0xFF#8, 0xFF#8, 0xFF#8] 2#3 t && !t.tp.txFreqChanged) = true ∧
    ok (exec .cc1 (ccState 1#3 { Tp.reset with txFreq := 3700000#32 }))
      (sends #v[0x02#8, 0x00#8, 0x38#8, 0x75#8, 0x20#8] 2#3) = true := by decide +kernel

/-- Program P2, step 10: receiver 1 of two, transmitting. -/
theorem test_cc2_p2 : ok (exec .cc2 { runN 2#5 with
    ccg := { run0.ccg with rr := 2#3, forceAll := 1#5 }, tp := { Tp.reset with mox := true },
    rx := run0.rx.set 1 ⟨14050000#32, true, 1#2⟩ })
    (fun t => sends #v[0x07#8, 0x00#8, 0xD6#8, 0x62#8, 0xD0#8] 3#3 t && t.ccg.forceAll == 0#5 &&
      !(rxAt t 1).freqChanged) = true := by decide +kernel

/-- VCC2b, step 51: receiver 7 has no command byte. -/
theorem test_cc2_vcc2b : ok (exec .cc2 { runN 8#5 with ccg := { run0.ccg with rr := 2#3, forceAll := 1#5 } })
    (fun t => t.trace == [.refused .cfgRange] && t.ccg.rr == 2#3 && t.ccg.forceAll == 1#5) = true := by
  decide +kernel

/-- VCC3a: strict comparisons, transmitting. -/
theorem test_cc3_vcc3a :
    [2500000#32, 2500001#32, 8000000#32, 16500001#32, 35600000#32, 35600001#32].map (fun f =>
      ok (exec .cc3 (ccState 3#3 { Tp.reset with txFreq := f, mox := true })) (fun t => t.ccg.rr == 5#3 &&
        t.ccg.cc[0] == 0x13#8 && t.ccg.cc[4] == [(2500000#32, 0x08#8), (2500001#32, 0x04#8), (8000000#32, 0x02#8),
          (16500001#32, 0x40#8), (35600000#32, 0x20#8), (35600001#32, 0x10#8)].lookup f)) =
    [true, true, true, true, true, true] := by decide +kernel

/-- VCC3b: the routing of six receivers goes to the cache, and state 4 is next. -/
theorem test_cc3_vcc3b : ok (exec .cc3 { runN 6#5 with
    ccg := { run0.ccg with rr := 3#3 },
    rx := Vector.ofFn fun (i : Fin 20) =>
      if h : i.val < 6 then ⟨0#32, false, (#v[1#2, 2#2, 3#2, 0#2, 1#2, 2#2])[i.val]⟩ else Rx.reset })
    (fun t => sends #v[0x12#8, 0x00#8, 0x00#8, 0x00#8, 0x00#8] 4#3 t &&
      t.ccg.adcCache == #v[0x39#8, 0x09#8, 0x00#8, 0x00#8]) = true := by decide +kernel

/-- VCC3b, at `rr` 4. -/
theorem test_cc4_vcc3b : ok (exec .cc4 { run0 with
    ccg := { run0.ccg with rr := 4#3, adcCache := #v[0x39#8, 0x09#8, 0x00#8, 0x00#8] } })
    (sends #v[0x1C#8, 0x39#8, 0x09#8, 0x00#8, 0x00#8] 5#3) = true := by decide +kernel

/-- VCC5: the first row, and the row with the PTT. -/
theorem test_cc5_vcc5 :
    ok (exec .cc5 (ccState 5#3
      { Tp.reset with sidetoneVol := 127#7, pttDelay := 255#8, dspCw := true, internalCw := true })) (sends #v[0x1E#8, 0x01#8, 0x7F#8, 0xFF#8, 0x00#8] 6#3) = true ∧
    ok (exec .cc5 (ccState 5#3
      { Tp.reset with sidetoneVol := 127#7, pttDelay := 255#8, dspCw := true, internalCw := true, ptt := true }))
      (sends #v[0x1E#8, 0x00#8, 0x7F#8, 0xFF#8, 0x00#8] 6#3) = true := by
  decide +kernel

/-- VCC6. -/
theorem test_cc6_vcc6 :
    ok (exec .cc6 { ccState 6#3 { Tp.reset with sidetoneFreq := 4095#12 } with
      kcfg := { run0.kcfg with hang := 1023#10 } }) (sends #v[0x20#8, 0xFF#8, 0x03#8, 0xFF#8, 0x0F#8] 7#3) = true ∧
    ok (exec .cc6 { ccState 6#3 { Tp.reset with sidetoneFreq := 1#12 } with
      kcfg := { run0.kcfg with hang := 1#10 } }) (sends #v[0x20#8, 0x00#8, 0x01#8, 0x00#8, 0x01#8] 7#3) = true := by
  decide +kernel

/-- VCC7. -/
theorem test_cc7_vcc7 :
    ok (exec .cc7 { ccState 7#3 Tp.reset with kcfg := ⟨60#6, 100#7, 1#2, false, 0#10, true⟩ })
      (sends #v[0x16#8, 0x40#8, 0x7C#8, 0x64#8, 0x00#8] 0#3) = true ∧
    ok (exec .cc7 { ccState 7#3 Tp.reset with kcfg := ⟨1#6, 0#7, 0#2, true, 0#10, false⟩ })
      (sends #v[0x16#8, 0x00#8, 0x01#8, 0x00#8, 0x00#8] 0#3) = true := by decide +kernel

/-! ### KEY_TICK -/

/-- The events are `es` and the keyer registers `k`. -/
def keys (es : List Event) (k : KeyRegs) (t : State) : Bool := t.trace == es && t.kr == k

/-- VK0. -/
theorem test_lengths_vk0 :
    [(1, 100), (7, 55), (13, 50), (20, 30), (60, 0), (60, 1)].map (fun x : Nat × Nat =>
      let k : Kcfg := { run0.kcfg with speed := BitVec.ofNat 6 x.1, weight := BitVec.ofNat 7 x.2 }
      (dotLen k, dashLen k)) =
    [(1200, 7200), (171, 564), (92, 276), (60, 108), (20, 0), (20, 1)] := by decide +kernel

/-- KT4: both paddles, the tie goes to the dash. -/
theorem test_ksCheck_kt4 : ok (exec .ksCheck (keyer 2#2 true true (kregs 0#3 0#16 false false)))
    (keys [.moxOn, .keyDown]
      { kregs 2#3 0#16 true true with dotHeld := true, dotPrev := true, dashPrev := true }) = true := by
  decide +kernel

/-- KT9: the dash contact wins in mode 0. -/
theorem test_ksCheck_kt9 : ok (exec .ksCheck (keyer 0#2 true true (kregs 0#3 0#16 false false)))
    (keys [.moxOn, .keyDown] { kregs 0#3 0#16 true true with dotPrev := true, dashPrev := true }) = true := by
  decide +kernel

/-- KT22: a rising dash edge sets the memory. -/
theorem test_ksSenddot_kt22 : ok (exec .ksSenddot (keyer 2#2 true true
      { kregs 1#3 5#16 true true with dotPrev := true }))
    (keys [] { kregs 1#3 6#16 true true with dotPrev := true, dashPrev := true, dashMem := true }) = true := by
  decide +kernel

/-- KT21: the twentieth tick ends the dot and reloads the hang time. -/
theorem test_ksSenddot_kt21 : ok (exec .ksSenddot (let s := keyer 2#2 true false { kregs 1#3 19#16 true true with dotPrev := true };
    { s with kcfg := { s.kcfg with hang := 9#10 } }))
    (keys [.keyUp] { kregs 3#3 0#16 false true with dotPrev := true, cwvox := 9#16 }) = true := by
  decide +kernel

/-- KT25: the sixtieth tick ends the dash. -/
theorem test_ksSenddash_kt25 : ok (exec .ksSenddash (keyer 2#2 false true
      { kregs 2#3 59#16 true true with dashPrev := true }))
    (keys [.keyUp] { kregs 4#3 0#16 false true with dashPrev := true }) = true := by decide +kernel

/-- KT28: a dash of length 0 lasts one tick. -/
theorem test_ksSenddash_kt28 : ok (exec .ksSenddash (let s := keyer 2#2 false true { kregs 2#3 0#16 true true with dashPrev := true };
    { s with kcfg := { s.kcfg with weight := 0#7 } }))
    (keys [.keyUp] { kregs 4#3 0#16 false true with dashPrev := true }) = true := by decide +kernel

/-- KT36: Mode B completes the held dash. -/
theorem test_ksDotdelay_kt36 : ok (exec .ksDotdelay (keyer 2#2 false false
      { kregs 3#3 19#16 false true with dashHeld := true }))
    (keys [.keyDown] (kregs 2#3 0#16 true true)) = true := by decide +kernel

/-- KT37: Mode A clears it. -/
theorem test_ksDotdelay_kt37 : ok (exec .ksDotdelay (keyer 1#2 false false
      { kregs 3#3 19#16 false true with dashHeld := true }))
    (keys [] (kregs 6#3 19#16 false true)) = true := by decide +kernel

/-- KT40: Mode A honours the dot memory. -/
theorem test_ksDashdelay_kt40 : ok (exec .ksDashdelay (keyer 1#2 false false
      { kregs 4#3 19#16 false true with dotMem := true }))
    (keys [.keyDown] (kregs 1#3 0#16 true true)) = true := by decide +kernel

/-- KT44: spacing leads to the letter space. -/
theorem test_ksDashdelay_kt44 : ok (exec .ksDashdelay (let s := keyer 2#2 false false (kregs 4#3 19#16 false true);
    { s with kcfg := { s.kcfg with spacing := true } }))
    (keys [] (kregs 5#3 0#16 false true)) = true := by decide +kernel

/-- KT53: both memories, the tie goes to the dash and the dot memory stays. -/
theorem test_ksLetterspace_kt53 : ok (exec .ksLetterspace (keyer 2#2 false false
      { kregs 5#3 39#16 false true with dotMem := true, dashMem := true }))
    (keys [.keyDown] { kregs 2#3 0#16 true true with dotMem := true }) = true := by decide +kernel

/-- KT55: a level is not a memory. -/
theorem test_ksLetterspace_kt55 : ok (exec .ksLetterspace (keyer 2#2 true false
      { kregs 5#3 39#16 false true with dotPrev := true }))
    (keys [] { kregs 6#3 39#16 false true with dotPrev := true }) = true := by decide +kernel

/-- KT60: no memory is set here. -/
theorem test_ksExitloop_kt60 : ok (exec .ksExitloop (keyer 2#2 true true
      { kregs 6#3 0#16 false true with cwvox := 3#16 }))
    (keys [] { kregs 6#3 0#16 false true with cwvox := 2#16, dotPrev := true, dashPrev := true }) = true := by
  decide +kernel

/-- KT61: the request drops. -/
theorem test_ksExitloop_kt61 : ok (exec .ksExitloop (keyer 2#2 false false (kregs 6#3 0#16 false true)))
    (keys [.moxOff] (kregs 0#3 0#16 false false)) = true := by decide +kernel

/-- KT70: an unrecognised state. -/
theorem test_ksUnknown_kt70 : ok (exec .ksUnknown (let s := keyer 2#2 true false { kregs 7#3 0#16 true true with dashMem := true };
    { s with kcfg := { s.kcfg with hang := 4#10 } }))
    (keys [.unknownKeyerState 7#3, .keyUp]
      { kregs 6#3 0#16 false true with cwvox := 4#16, dashMem := true, dotPrev := true }) = true := by
  decide +kernel

/-! ### Witnesses: concrete states and operands that meet the hypotheses of each statement, clause by clause

Each is named after its statement. -/

theorem witness_DecodeInvertsEncode :
    (paramsWf ctx0.par = true ∧ wellFormed ctx0.par (.decodeOk frameVD5 5) = true ∧
      selects ctx0 (.decodeOk frameVD5 5) = true) ∧
    (wellFormed ctx0.par .cc7 = true ∧ selects (tableWordContext 7#3) .cc7 = true) ∧
    (wellFormed ctx0.par .ksUnknown = true ∧ selects { ctx0 with ks := 7#3 } .ksUnknown = true) := by
  decide +kernel

theorem witness_DecodedInstrIsSelectedAndWellFormed :
    decode ctx0 (.gapCheck 4294967295) = .ok (.gapCheck 4294967295#32) ∧
    (Request.gapCheck 4294967295).explicit = true := ⟨rfl, rfl⟩

theorem witness_TableWordsReadAsTheirRows :
    (ctx0.par.sync = #v[0x7F#8, 0x7F#8, 0x7F#8] ∧
      frameVD5[0] = 0x7F#8 ∧ frameVD5[1] = 0x7F#8 ∧ frameVD5[2] = 0x7F#8) ∧
    (frame3 0x7F#8 0x00#8 0x7F#8)[1] = 0x00#8 ∧
    (tableWordContext 7#3).rr = 7#3 ∧ ctx0.par.ksCode = defaultKsCodes ∧
    ({ ctx0 with ks := 4#3 } : Context).ks = 4#3 ∧ ({ ctx0 with ks := 7#3 } : Context).ks = 7#3 := by
  decide +kernel

theorem witness_StepPerformsTheNextOperation :
    run0.script = [] ∧
    ((run0.withScript [.stop]).script = Request.stop :: [] ∧
      decode (fetchContext (run0.withScript [.stop])) .stop = .ok .stop) ∧
    ((run0.withScript [.gapCheck (2 ^ 32)]).script = Request.gapCheck (2 ^ 32) :: [] ∧
      decode (fetchContext (run0.withScript [.gapCheck (2 ^ 32)])) (.gapCheck (2 ^ 32)) =
        .error (.badSequence (2 ^ 32))) := ⟨rfl, ⟨rfl, rfl⟩, rfl, rfl⟩

/-- The third case in a step: a presentation that is no operation is refused by name. -/
theorem test_step_undecodable :
    undecodable (step (run0.withScript [.txWrite .last])) .noPrecedingEncode = true := by decide +kernel

theorem witness_StoppedBlockRefuses : State.reset.run = false ∧ (State.reset.withScript []).run = false :=
  ⟨rfl, rfl⟩

/-- The invariant of a stopped state with an operation to come. -/
theorem inv_reset_start : Inv (State.reset.withScript [.start]) :=
  ⟨by decide +kernel, by decide +kernel, by decide +kernel, by decide +kernel, by decide +kernel,
    by decide +kernel, by decide +kernel⟩

/-- The invariant of a running state with a tick to come, the dot paddle closed. -/
theorem inv_run_tick :
    Inv ((keyer 2#2 true false (kregs 0#3 0#16 false false)).withScript [.keyTick]) :=
  ⟨by decide +kernel, by decide +kernel, by decide +kernel, by decide +kernel, by decide +kernel,
    by decide +kernel, by decide +kernel⟩

theorem witness_InvariantKeptByEveryStep :
    (Inv (State.reset.withScript [.start]) ∧ ∃ t, step (State.reset.withScript [.start]) = .next t) ∧
    (Inv ((keyer 2#2 true false (kregs 0#3 0#16 false false)).withScript [.keyTick]) ∧
      ∃ t, step ((keyer 2#2 true false (kregs 0#3 0#16 false false)).withScript [.keyTick]) = .next t) :=
  ⟨⟨inv_reset_start, _, rfl⟩, inv_run_tick, _, rfl⟩

theorem witness_UnknownKeyerStateNeverRaised :
    (∃ t, core.run 3 (State.reset.withScript [.start, .keyTick, .gapCheck 1]) = .next t) ∧
    Inv ((keyer 2#2 true false (kregs 0#3 0#16 false false)).withScript [.keyTick]) ∧
    ∃ t, step ((keyer 2#2 true false (kregs 0#3 0#16 false false)).withScript [.keyTick]) = .next t :=
  ⟨⟨_, rfl⟩, inv_run_tick, _, rfl⟩

theorem witness_ParametersFixedAndOutputsOnlyGrow : ∃ t, step (run0.withScript [.hwcmd .start]) = .next t :=
  ⟨_, rfl⟩

theorem witness_EachUnitHasItsWriters :
    (∃ t, exec (.gapCheck 7#32) run0 = .next t) ∧ encode (.gapCheck 7#32) ≠ .start ∧
    encode (.gapCheck 7#32) ≠ .stop ∧ encode (.gapCheck 7#32) ≠ .keyTick ∧ encode (.gapCheck 7#32) ≠ .ccStep ∧
    (∃ t, exec .ksCheck run0 = .next t) ∧ encode .ksCheck ≠ .ccStep ∧ (Instr.ksCheck ≠ .cc1 ∧ Instr.ksCheck ≠ .cc2) :=
  ⟨⟨_, rfl⟩, nofun, nofun, nofun, nofun, ⟨_, rfl⟩, nofun, nofun, nofun⟩

theorem witness_SyncLostIsRateLimited :
    let s := { run0 with dec := { run0.dec with syncRepValid := true, syncRepTime := 100 } }
    s.run = true ∧ s.dec.syncRepTime + s.par.syncReportGapMs < 111 ∧
    ¬ (s.dec.syncRepValid = false ∨ s.dec.syncRepTime + s.par.syncReportGapMs < 110) ∧
    run0.run = true ∧ run0.dec.syncRepValid = false := by decide +kernel

theorem witness_DecodeStoresStatusAndPaddles : run0.run = true := rfl

/-- The last cell of the batch with twenty receivers, the first with one; an index the frame does not write
and a receiver it does not have. -/
theorem witness_DecodeStoresSamples :
    (let s := { runN 20#5 with dec := { run0.dec with idx := 511 } }
     s.run = true ∧ s.dec.idx < s.par.batch ∧ s.cfg.nrx.toNat ≤ 20 ∧
     504 / (6 * s.cfg.nrx.toNat + 2) ≤ s.par.batch ∧ 3 < 504 / (6 * s.cfg.nrx.toNat + 2) ∧
     19 < s.cfg.nrx.toNat ∧ s.cfg.nrx.toNat ≤ 20 ∧
     ∀ p < 504 / (6 * s.cfg.nrx.toNat + 2), 3 ≠ (s.dec.idx + p) % s.par.batch) ∧
    (run0.run = true ∧ run0.dec.idx < run0.par.batch ∧ run0.cfg.nrx.toNat ≤ 20 ∧
     504 / (6 * run0.cfg.nrx.toNat + 2) ≤ run0.par.batch ∧ 62 < 504 / (6 * run0.cfg.nrx.toNat + 2) ∧
     run0.cfg.nrx.toNat ≤ 1) := by decide +kernel

/-- One receiver has 63 periods a frame: at index 448 the batch does not fill, at 449 it just does. -/
theorem witness_HandOffCarriesTheFullBuffers :
    (let s := { run0 with dec := { run0.dec with idx := 448 } }
     s.run = true ∧ s.dec.idx < s.par.batch ∧ s.cfg.nrx.toNat ≤ 20 ∧
     504 / (6 * s.cfg.nrx.toNat + 2) ≤ s.par.batch ∧
     504 / (6 * s.cfg.nrx.toNat + 2) < s.par.batch - s.dec.idx) ∧
    (let s := { run0 with dec := { run0.dec with idx := 449 } }
     s.run = true ∧ s.dec.idx < s.par.batch ∧ s.cfg.nrx.toNat ≤ 20 ∧
     504 / (6 * s.cfg.nrx.toNat + 2) ≤ s.par.batch ∧
     s.par.batch - s.dec.idx ≤ 504 / (6 * s.cfg.nrx.toNat + 2)) := by decide +kernel

theorem witness_CountingLawOverFrames :
    let fs : List (Vector Byte 512 × Nat) := [(frameVD5, 0), (frameVD7, 1)]
    let s := run0.withScript (fs.map fun x => Request.decode (.bytes x.1.toList) x.2)
    (s.run = true ∧ s.dec.idx < s.par.batch ∧ ∀ x ∈ fs, syncMatches s.par x.1 = true) ∧
    s.script = fs.map (fun x => Request.decode (.bytes x.1.toList) x.2) := ⟨by decide +kernel, rfl⟩

theorem witness_PeriodTableAndReadRange :
    62 < periodCount 1 ∧ 0 < 1 ∧ 3 < periodCount 20 ∧ 19 < 20 := by decide +kernel

/-- The last place a 24-bit sample fits, and the code below -1. -/
theorem witness_SampleValuesAreExact :
    509 + 2 < 512 ∧ 510 + 1 < 512 ∧ (frame3 0x80#8 0x00#8 0x00#8)[0].toNat = 128 ∧
    (frame3 0x80#8 0x00#8 0x00#8)[1].toNat = 0 ∧ (frame3 0x80#8 0x00#8 0x00#8)[2].toNat = 0 := by decide +kernel

theorem witness_EncodedFrameDecodesToItsControlBytes :
    let x : Vector Byte 5 := #v[0x1E#8, 0x01#8, 0x40#8, 0x14#8, 0x00#8]
    let p : Vector Byte 504 := padTo 504 []
    let s := run0.withScript [.encode (.bytes x.toList) p.toList, .decode .last 0, .keyTick]
    s.run = true ∧ s.script = .encode (.bytes x.toList) p.toList :: .decode .last 0 :: [.keyTick] := ⟨rfl, rfl⟩

theorem witness_TxWriteAlternatesTheHeader : run0.run = true ∧ State.reset.run = false := ⟨rfl, rfl⟩

/-- The last state is in the middle of a pair of writes. -/
theorem witness_SequenceNumbersAreConsecutive :
    let os := [frameVD5, frameVD7, frameVD5]
    let u := State.reset.withScript (.start :: os.map fun o => Request.txWrite (.bytes o.toList))
    let s := run0.withScript (os.map fun o => Request.txWrite (.bytes o.toList))
    let v := { s with sq := { s.sq with seq := 1#32, hdrPhase := true } }
    (s.run = true ∧ s.sq.hdrPhase = false ∧ s.script = os.map (fun o => Request.txWrite (.bytes o.toList))) ∧
    (v.run = true ∧ v.sq.hdrPhase = true ∧ v.script = os.map (fun o => Request.txWrite (.bytes o.toList))) ∧
    (u.run = false ∧ u.script = .start :: os.map (fun o => Request.txWrite (.bytes o.toList))) :=
  ⟨⟨rfl, rfl, rfl⟩, ⟨rfl, rfl, rfl⟩, rfl, rfl⟩

theorem witness_GapCheckReportsAndFollows : run0.run = true ∧ State.reset.run = false := ⟨rfl, rfl⟩

/-- Across the wrap: from the first number seen, and after a number that precedes it. -/
theorem witness_ConsecutiveNumbersGiveNoGap :
    let l := (List.range 2).map (fun k => Request.gapCheck (0xFFFFFFFF#32 + BitVec.ofNat 32 k).toNat)
    let s := run0.withScript l
    let u := { s with sq := ⟨false, 0#32, 0xFFFFFFFE#32, true⟩ }
    (s.run = true ∧ s.sq.lastSeenValid = false ∧ s.script = l) ∧
    (u.run = true ∧ 0xFFFFFFFF#32 = u.sq.lastSeen + 1#32 ∧ u.script = l) ∧ 0 < 2 := by decide +kernel

theorem witness_StartLoadsTheCountdown : run0.run = true ∧ State.reset.run = false := ⟨rfl, rfl⟩

theorem witness_CfgWriteRangedRegisters :
    (1 ≤ 1 ∧ 20 ≤ 20 ∧ ¬ (1 ≤ 0) ∧ ¬ (21 ≤ 20)) ∧ (60 ≤ 60 ∧ ¬ (61 ≤ 60)) ∧ (100 ≤ 100 ∧ ¬ (101 ≤ 100)) := by
  decide

theorem witness_CfgWriteFrequencySetsItsFlag :
    19 < 20 ∧ 0#32 = run0.tp.txFreq ∧ 0xFFFFFFFF#32 ≠ run0.tp.txFreq := by decide +kernel

theorem witness_CfgWritePaddlesGainAndReceivers : 19 < 20 ∧ 3 < 4 ∧ ¬ (4 < 4) ∧ 1 < 2 ∧ ¬ (2 < 2) := by decide

theorem witness_CfgWriteRefusesWhatIsIllegal :
    ((1 / 2 : Rat).den ≠ 1 ∧ CfgReg.speed ≠ .micGain) ∧ ((-1 : Rat).num < 0 ∧ CfgReg.band ≠ .micGain) ∧
    (CfgReg.txFreq = .txFreq ∧ 2 ^ 32 ≤ (4294967296 : Rat).num) ∧
    ((∃ r, CfgReg.rxFreq 19 = .rxFreq r ∧ 2 ^ 32 ≤ (4294967296 : Rat).num)) ∧
    (∃ r, 20 ≤ r ∧ (CfgReg.rxAdc 20 = .rxFreq r ∨ CfgReg.rxAdc 20 = .rxAdc r ∨ CfgReg.rxAdc 20 = .rxFreqChanged r)) ∧
    (∃ name, CfgReg.notConfig "rr" = .notConfig name) :=
  ⟨by decide +kernel, by decide +kernel, by decide +kernel, ⟨19, rfl, by decide +kernel⟩,
    ⟨20, Nat.le_refl 20, .inr (.inl rfl)⟩, ⟨"rr", rfl⟩⟩

theorem witness_Cc0SendsGeneralConfiguration :
    ((runN 8#5).run = true ∧ (runN 8#5).par.layout = defaultLayout ∧
      (runN 8#5).cfg.nrx.toNat ≤ 2 ^ (runN 8#5).par.nrxWidth) ∧
    ((runN 9#5).run = true ∧ 2 ^ (runN 9#5).par.nrxWidth < (runN 9#5).cfg.nrx.toNat) := by decide +kernel

theorem witness_Cc1SendsTheTxFrequency : run0.run = true ∧ run0.par.layout = defaultLayout := ⟨rfl, rfl⟩

/-- `run0` with eight receivers, the countdown at `n` and receiver 6 changed. -/
def changed6 (n : BitVec 5) : State :=
  { runN 8#5 with ccg := { run0.ccg with rr := 2#3, forceAll := n }, rx := run0.rx.set 6 ⟨0#32, true, 0#2⟩ }

theorem witness_Cc2SelectsTheReceiver :
    0#5 < (changed6 1#5).ccg.forceAll ∧ (changed6 0#5).ccg.forceAll = 0#5 ∧
    (6 < (changed6 0#5).cfg.nrx.toNat ∧ (rxAt (changed6 0#5) 6).freqChanged = true ∧
      ∀ k < 6, (rxAt (changed6 0#5) k).freqChanged = false) ∧
    (∀ r < (runN 8#5).cfg.nrx.toNat, (rxAt (runN 8#5) r).freqChanged = false) := by decide +kernel

theorem witness_Cc2SendsTheSelectedReceiver :
    ((changed6 0#5).run = true ∧ (changed6 0#5).par.layout = defaultLayout) ∧
    rxSelected { runN 8#5 with ccg := { run0.ccg with rr := 2#3, forceAll := 0#5 } } = none ∧
    (6 < 20 ∧ rxSelected (changed6 0#5) = some 6 ∧ (changed6 0#5).par.rxfreqC0[6] = some 0x10#8) ∧
    (7 < 20 ∧ rxSelected (changed6 1#5) = some 7 ∧ (changed6 1#5).par.rxfreqC0[7] = none) := by decide +kernel

theorem witness_Cc3SendsDriveAndFilter : run0.run = true ∧ run0.par.layout = defaultLayout := ⟨rfl, rfl⟩

theorem witness_RouteBytesPackTheAdcFields :
    3 < 4 ∧ (4 * 3 + 3 < (runN 20#5).cfg.nrx.toNat ∧ 4 * 3 + 3 < 16) ∧
    ¬ (4 * 3 + 3 < (runN 15#5).cfg.nrx.toNat) := by decide +kernel

theorem witness_Cc4ToCc7SendTheirFields : run0.run = true ∧ run0.par.layout = defaultLayout := ⟨rfl, rfl⟩

theorem witness_MoxBitAfterEveryState : run0.run = true ∧
    ∀ i ∈ [Instr.cc0, .cc1, .cc2, .cc3, .cc4, .cc5, .cc6, .cc7],
      ok (exec i run0) (fun t => t.trace == run0.trace) = true := by decide +kernel

/-- The routing agrees with the cache after START with every field 0; it does not where receiver 0 has
its field set. -/
theorem witness_RoundRobinReturnsInSevenOrEight :
    (let s := run0.withScript (List.replicate 7 .ccStep ++ [])
     s.run = true ∧ s.ccg.rr = 0#3 ∧ s.cfg.nrx.toNat ≤ 2 ^ s.par.nrxWidth ∧
     (rxSelected s = some 0 ∧ rxfreqC0At s.par 0 ≠ none) ∧ route s = s.ccg.adcCache ∧
     s.script = List.replicate 7 .ccStep ++ []) ∧
    (let s := { run0 with rx := run0.rx.set 0 ⟨0#32, false, 3#2⟩, script := List.replicate 8 .ccStep ++ [] }
     s.run = true ∧ s.ccg.rr = 0#3 ∧ s.cfg.nrx.toNat ≤ 2 ^ s.par.nrxWidth ∧
     (rxSelected s = some 0 ∧ rxfreqC0At s.par 0 ≠ none) ∧ route s ≠ s.ccg.adcCache ∧
     s.script = List.replicate 8 .ccStep ++ []) := by decide +kernel

theorem witness_ElementLengthsInRange :
    (let k : Kcfg := ⟨1#6, 100#7, 2#2, false, 0#10, false⟩
     1 ≤ k.speed.toNat ∧ k.speed.toNat ≤ 60 ∧ k.weight.toNat ≤ 100) ∧
    (let k : Kcfg := ⟨60#6, 0#7, 2#2, false, 0#10, false⟩
     1 ≤ k.speed.toNat ∧ k.speed.toNat ≤ 60 ∧ k.weight.toNat ≤ 100) := by decide +kernel

/-- A state for each clause, in their order. -/
theorem witness_CheckFollowsThePaddles :
    (let s := keyer 0#2 false true (kregs 0#3 0#16 true true)
     s.run = true ∧ s.kr.key = true ∧ s.kcfg.mode = 0#2 ∧ s.paddle.dash = true) ∧
    (let s := keyer 0#2 false false (kregs 0#3 0#16 true true)
     s.run = true ∧ s.kr.key = true ∧ s.paddle.dash = false) ∧
    (let s := keyer 2#2 false true (kregs 0#3 0#16 true true)
     s.run = true ∧ s.kr.key = true ∧ s.kcfg.mode ≠ 0#2) ∧
    (let s := keyer 0#2 true true (kregs 0#3 0#16 false false)
     s.run = true ∧ s.kr.key = false ∧ s.kcfg.mode = 0#2 ∧ s.paddle.dash = true) ∧
    (let s := keyer 0#2 true false (kregs 0#3 0#16 false false)
     s.run = true ∧ s.kr.key = false ∧ s.kcfg.mode = 0#2 ∧ s.paddle.dash = false ∧ s.paddle.dot = true) ∧
    (let s := keyer 1#2 true true (kregs 0#3 0#16 false false)
     s.run = true ∧ s.kr.key = false ∧ s.kcfg.mode ≠ 0#2 ∧ s.paddle.dash = true ∧ s.paddle.dot = true) ∧
    (let s := keyer 1#2 false true (kregs 0#3 0#16 false false)
     s.run = true ∧ s.kr.key = false ∧ s.kcfg.mode ≠ 0#2 ∧ s.paddle.dash = true ∧ s.paddle.dot = false) ∧
    (let s := keyer 1#2 true false (kregs 0#3 0#16 false false)
     s.run = true ∧ s.kr.key = false ∧ s.kcfg.mode ≠ 0#2 ∧ s.paddle.dash = false ∧ s.paddle.dot = true) ∧
    (let s := keyer 2#2 false false (kregs 0#3 0#16 false true)
     s.run = true ∧ s.kr.key = false ∧ s.paddle.dash = false ∧ s.paddle.dot = false) := by decide +kernel

/-- The nineteenth tick of an element or a space of twenty goes on, the twentieth ends it. -/
theorem witness_ElementsEndWithKeyUp :
    (let s := keyer 2#2 true false (kregs 1#3 19#16 true true)
     s.run = true ∧ 1200 / s.kcfg.speed.toNat ≤ s.kr.cnt.toNat + 1) ∧
    (let s := keyer 2#2 true false (kregs 1#3 18#16 true true)
     s.run = true ∧ ¬ 1200 / s.kcfg.speed.toNat ≤ s.kr.cnt.toNat + 1) := by decide +kernel

/-- A state for each clause, in their order. -/
theorem witness_DotDelayDecides :
    (let s := keyer 2#2 false false (kregs 3#3 18#16 false true)
     s.run = true ∧ s.kr.key = false ∧ s.kr.cnt.toNat + 1 < 1200 / s.kcfg.speed.toNat) ∧
    (let s := keyer 1#2 false false { kregs 3#3 19#16 false true with dashMem := true }
     s.run = true ∧ s.kr.key = false ∧ 1200 / s.kcfg.speed.toNat ≤ s.kr.cnt.toNat + 1 ∧ s.kr.dashMem = true) ∧
    (let s := keyer 2#2 true false (kregs 3#3 19#16 false true)
     s.run = true ∧ s.kr.key = false ∧ 1200 / s.kcfg.speed.toNat ≤ s.kr.cnt.toNat + 1 ∧
     s.kr.dashMem = false ∧ s.kr.dashHeld = false ∧ s.paddle.dash = false ∧ s.paddle.dot = true) ∧
    (let s := keyer 1#2 false false { kregs 3#3 19#16 false true with dashHeld := true }
     s.run = true ∧ s.kr.key = false ∧ 1200 / s.kcfg.speed.toNat ≤ s.kr.cnt.toNat + 1 ∧
     s.kr.dashMem = false ∧ s.kcfg.mode = 1#2 ∧ s.paddle.dash = false ∧ s.paddle.dot = false) := by
  decide +kernel

/-- A state for each clause, in their order. -/
theorem witness_DashDelayDecides :
    (let s := keyer 2#2 false false (kregs 4#3 18#16 false true)
     s.run = true ∧ s.kr.key = false ∧ s.kr.cnt.toNat + 1 < 1200 / s.kcfg.speed.toNat) ∧
    (let s := keyer 1#2 false false { kregs 4#3 19#16 false true with dotMem := true }
     s.run = true ∧ s.kr.key = false ∧ 1200 / s.kcfg.speed.toNat ≤ s.kr.cnt.toNat + 1 ∧ s.kr.dotMem = true) ∧
    (let s := keyer 2#2 false true (kregs 4#3 19#16 false true)
     s.run = true ∧ s.kr.key = false ∧ 1200 / s.kcfg.speed.toNat ≤ s.kr.cnt.toNat + 1 ∧
     s.kr.dotMem = false ∧ s.kr.dotHeld = false ∧ s.paddle.dot = false ∧ s.paddle.dash = true) ∧
    (let s := keyer 1#2 false false { kregs 4#3 19#16 false true with dotHeld := true }
     s.run = true ∧ s.kr.key = false ∧ 1200 / s.kcfg.speed.toNat ≤ s.kr.cnt.toNat + 1 ∧
     s.kr.dotMem = false ∧ s.kcfg.mode = 1#2 ∧ s.paddle.dot = false ∧ s.paddle.dash = false) := by
  decide +kernel

theorem witness_LetterSpaceHonoursMemories :
    (let s := keyer 2#2 false false (kregs 5#3 38#16 false true)
     s.run = true ∧ s.kr.key = false ∧ s.kr.cnt.toNat + 1 < 2 * (1200 / s.kcfg.speed.toNat)) ∧
    (let s := keyer 2#2 false false { kregs 5#3 39#16 false true with dotMem := true, dashMem := true }
     s.run = true ∧ s.kr.key = false ∧ ¬ s.kr.cnt.toNat + 1 < 2 * (1200 / s.kcfg.speed.toNat)) := by
  decide +kernel

theorem witness_ExitLoopRunsDownTheHangTime :
    (let s := keyer 2#2 false false { kregs 6#3 0#16 false true with cwvox := 1#16 }
     s.run = true ∧ s.kr.cwvox ≠ 0#16) ∧
    (let s := keyer 2#2 false false (kregs 6#3 0#16 false true)
     s.run = true ∧ s.kr.cwvox = 0#16) := by decide +kernel

theorem witness_UnknownStateRecovers : (keyer 2#2 false false (kregs 7#3 0#16 true true)).run = true := rfl

theorem witness_ElementLastsItsLength :
    (let s := (keyer 2#2 true false (kregs 1#3 0#16 true true)).withScript (List.replicate 20 .keyTick ++ [.stop])
     s.run = true ∧ paramsWf s.par = true ∧ s.kr.cnt = 0#16 ∧ s.kr.ks = s.par.ksCode.senddot ∧
     s.script = List.replicate (max 1 (1200 / s.kcfg.speed.toNat)) .keyTick ++ [.stop]) ∧
    (let s := (keyer 2#2 false true (kregs 2#3 0#16 true true)).withScript (List.replicate 60 .keyTick ++ [.stop])
     s.run = true ∧ paramsWf s.par = true ∧ s.kr.cnt = 0#16 ∧ s.kr.ks = s.par.ksCode.senddash ∧
     s.script = List.replicate (max 1 (1200 / s.kcfg.speed.toNat * 3 * s.kcfg.weight.toNat / 50)) .keyTick ++
       [.stop]) := by decide +kernel

theorem witness_TickEmitsOneGroup : run0.run = true ∧ State.reset.run = false := ⟨rfl, rfl⟩

theorem witness_KeyEventsAlternate :
    let s := (keyer 2#2 true false (kregs 0#3 0#16 false false)).withScript [.keyTick]
    Inv s ∧ s.run = true ∧ ∃ t, step s = .next t ∧ t.run = true := ⟨inv_run_tick, rfl, _, rfl, rfl⟩

end Sys2Proof.Tests
end

section
/-! DEC, the decoder: what an accepted and a sync-lost frame do (R140 to R151), from the laws of one sample
period in `Laws/Dec.lean`. -/

namespace Sys2Proof.Machine

/-! ### The two rows of DECODE -/

/-- A running block accepts the frame. -/
theorem exec_decodeOk_of_run {s : State} (h : s.run = true) (f : Vector Byte 512) (now : Nat) :
    exec (.decodeOk f now) s = .next (acceptFrame f s) := whenRunning_run h _

/-- A frame whose SYNC matches is presented to the row DECODE.OK. -/
theorem decode_frame_of_syncMatches {x : Context} {f : Vector Byte 512} (h : syncMatches x.par f = true)
    (now : Nat) : decode x (.decode (.bytes f.toList) now) = .ok (.decodeOk f now) := by
  simp [decode, frameArg, ofLength_toList, decodeRow, h]

/-- The rate-limited report of a sync-lost frame, on the state's fields (R141). -/
theorem raise_syncLost (now : Nat) (s : State) : raise (.syncLost now) s =
    if s.dec.syncRepValid = false ∨ s.dec.syncRepTime + s.par.syncReportGapMs < now then
      { s with dec := { s.dec with syncRepValid := true, syncRepTime := now },
               trace := s.trace ++ [.syncLost now] }
    else s := by
  simp only [raise, syncReportDue_iff]
  rfl

/-- Settles O12: the row is `raise` of SyncLost, whose two cases `raise_syncLost` gives. -/
theorem syncLostIsRateLimited : Obligations.SyncLostIsRateLimited := by
  intro f now s hrun
  rw [← raise_syncLost]
  exact whenRunning_run hrun _

/-! ### The periods lie inside the frame -/

/-- Each of the `P(N)` periods ends within the payload. -/
theorem periodBase_succ_le {n p : Nat} (h : p < periodCount n) : periodBase n (p + 1) ≤ 512 := by
  have hfit : (p + 1) * periodBytes n ≤ 504 :=
    calc (p + 1) * periodBytes n ≤ periodCount n * periodBytes n := Nat.mul_le_mul_right _ h
      _ ≤ 504 := Nat.div_mul_le_self 504 _
  simp only [periodBase, Config.hdrLen]
  omega

/-- The next period starts where this one's six bytes a receiver and two mic bytes end. -/
theorem periodBase_succ (n p : Nat) : periodBase n (p + 1) = periodBase n p + 6 * n + 2 := by
  simp only [periodBase, periodBytes, Nat.succ_mul]
  omega

/-- Settles O17: a period's reads lie before the next period's start, and that is at most 512; the table
is evaluated. -/
theorem periodTableAndReadRange : Obligations.PeriodTableAndReadRange := by
  refine ⟨fun n p r hp hr => ?_, by decide⟩
  have hend := periodBase_succ_le hp
  rw [periodBase_succ] at hend
  omega

/-! ### Status and frame of an accepted frame -/

/-- The status is taken before the walk, which leaves it, the SyncLost limiter, and all but DEC and
the trace alone. -/
theorem DecFrame.acceptFrame (f : Vector Byte 512) (s : State) : DecFrame (takeStatus f s) (acceptFrame f s) :=
  DecFrame.walkPeriods f _ _ _ _

/-- An accepted frame changes the decoder's registers, the paddle bits and the trace, and nothing else. -/
theorem acceptFrame_eq (f : Vector Byte 512) (s : State) : acceptFrame f s =
    { s with dec := (acceptFrame f s).dec, paddle := paddleOf s.par.statusLayout (statusBytes f)[0],
             trace := (acceptFrame f s).trace } := by
  obtain ⟨-, -, -, d, es, h⟩ := DecFrame.acceptFrame f s
  rw [h]
  rfl

theorem acceptFrame_run (f : Vector Byte 512) (s : State) : (acceptFrame f s).run = s.run := by
  rw [acceptFrame_eq]

theorem acceptFrame_cfg (f : Vector Byte 512) (s : State) : (acceptFrame f s).cfg = s.cfg := by
  rw [acceptFrame_eq]

theorem acceptFrame_paddle (f : Vector Byte 512) (s : State) :
    (acceptFrame f s).paddle = paddleOf s.par.statusLayout (statusBytes f)[0] :=
  congrArg State.paddle (acceptFrame_eq f s)

/-- The events of an accepted frame begin with `Status`. -/
theorem acceptFrame_trace (f : Vector Byte 512) (s : State) :
    ∃ es, (acceptFrame f s).trace = s.trace ++ .status (statusBytes f) :: es := by
  obtain ⟨-, -, -, d, es, h⟩ := DecFrame.acceptFrame f s
  exact ⟨es, by rw [h]; simp [takeStatus]⟩

/-- Settles O13: `takeStatus` stores and reports; the walk is framed by `DecFrame`. -/
theorem decodeStoresStatusAndPaddles : Obligations.DecodeStoresStatusAndPaddles := by
  intro f now s hrun
  obtain ⟨hvalid, htime, hstatus, -⟩ := DecFrame.acceptFrame f s
  obtain ⟨es, htrace⟩ := acceptFrame_trace f s
  refine ⟨acceptFrame f s, es, exec_decodeOk_of_run hrun f now, hstatus, acceptFrame_paddle f s, htrace, hvalid,
    htime, ?_⟩
  rw [acceptFrame_paddle]
  exact acceptFrame_eq f s

/-! ### Cells after the walk -/

/-- Fewer than `b` periods apart, two periods go to different cells. -/
theorem add_mod_ne_of_lt {i p k b : Nat} (hpk : p < k) (hk : k < b) : (i + p) % b ≠ (i + k) % b := by
  intro h
  have hmod : p % b = k % b := Nat.ModEq.add_left_cancel' i h
  rw [Nat.mod_eq_of_lt (hpk.trans hk), Nat.mod_eq_of_lt hk] at hmod
  omega

section
variable {f : Vector Byte 512} {n : Nat} {g : Rat} {s : State} {k : Nat}

/-- What no period of the walk changes is after the walk as it was before. -/
theorem walkPeriods_kept {cell : State → Option Rat}
    (h : ∀ p < k, cell (samplePeriod f n g (walkPeriods f n g p s) p) = cell (walkPeriods f n g p s)) :
    cell (walkPeriods f n g k s) = cell s := by
  induction k with
  | zero => rfl
  | succ k ih =>
    rw [walkPeriods_succ, h k (Nat.lt_succ_self k)]
    exact ih fun p hp => h p (Nat.lt_succ_of_lt hp)

/-- In a buffer where each period writes its value at `idx`, and no period overwrites another's cell as they
are at most a batch, period `p`'s value stands in cell `(idx + p) mod BATCH` after the walk. -/
theorem walkPeriods_stored {cell : State → Nat → Option Rat} {value : Nat → Rat}
    (hwrite : ∀ t p a, cell (samplePeriod f n g t p) a = if a = t.dec.idx then some (value p) else cell t a)
    (hidx : s.dec.idx < s.par.batch) (hk : k ≤ s.par.batch) {p : Nat} (hp : p < k) :
    cell (walkPeriods f n g k s) ((s.dec.idx + p) % s.par.batch) = some (value p) := by
  induction k with
  | zero => omega
  | succ k ih =>
    rw [walkPeriods_succ, hwrite, walkPeriods_idx f n g k s hidx]
    rcases Nat.lt_succ_iff_lt_or_eq.1 hp with hlt | rfl
    · rw [if_neg (add_mod_ne_of_lt hlt hk)]
      exact ih (by omega) hlt
    · rw [if_pos rfl]

theorem iCell_walkPeriods_stored (hidx : s.dec.idx < s.par.batch) (hk : k ≤ s.par.batch) (hn : n ≤ 20)
    {p r : Nat} (hp : p < k) (hr : r < n) :
    iCell (walkPeriods f n g k s) r ((s.dec.idx + p) % s.par.batch) =
      some (sampleValue f (periodBase n p + 6 * r)) := by
  refine walkPeriods_stored (cell := fun t => iCell t r)
    (value := fun p => sampleValue f (periodBase n p + 6 * r)) (fun t p a => ?_) hidx hk hp
  simp [iCell_samplePeriod, hr, hr.trans_le hn]

theorem qCell_walkPeriods_stored (hidx : s.dec.idx < s.par.batch) (hk : k ≤ s.par.batch) (hn : n ≤ 20)
    {p r : Nat} (hp : p < k) (hr : r < n) :
    qCell (walkPeriods f n g k s) r ((s.dec.idx + p) % s.par.batch) =
      some (sampleValue f (periodBase n p + 6 * r + 3)) := by
  refine walkPeriods_stored (cell := fun t => qCell t r)
    (value := fun p => sampleValue f (periodBase n p + 6 * r + 3)) (fun t p a => ?_) hidx hk hp
  simp [qCell_samplePeriod, hr, hr.trans_le hn]

theorem micCell_walkPeriods_stored (hidx : s.dec.idx < s.par.batch) (hk : k ≤ s.par.batch)
    {p : Nat} (hp : p < k) :
    micCell (walkPeriods f n g k s) ((s.dec.idx + p) % s.par.batch) =
      some (micValue f g (periodBase n p + 6 * n)) :=
  walkPeriods_stored (value := fun p => micValue f g (periodBase n p + 6 * n))
    (fun t p a => micCell_samplePeriod f n g t p a) hidx hk hp

/-- Period `p` of the walk writes no cell of a receiver from `n` on, and none that is not its own. -/
theorem not_written_of_other (hidx : s.dec.idx < s.par.batch) {r a p : Nat} (hp : p < k)
    (h : n ≤ r ∨ ∀ p < k, a ≠ (s.dec.idx + p) % s.par.batch) :
    ¬ (r < n ∧ r < 20 ∧ a = (walkPeriods f n g p s).dec.idx) := by
  rw [walkPeriods_idx f n g p s hidx]
  rintro ⟨hr, -, ha⟩
  rcases h with hn | hother
  · omega
  · exact hother p hp ha

theorem iCell_walkPeriods_kept (hidx : s.dec.idx < s.par.batch) {r a : Nat}
    (h : n ≤ r ∨ ∀ p < k, a ≠ (s.dec.idx + p) % s.par.batch) :
    iCell (walkPeriods f n g k s) r a = iCell s r a := by
  refine walkPeriods_kept (cell := fun t => iCell t r a) fun p hp => ?_
  rw [iCell_samplePeriod, if_neg (not_written_of_other hidx hp h)]

theorem qCell_walkPeriods_kept (hidx : s.dec.idx < s.par.batch) {r a : Nat}
    (h : n ≤ r ∨ ∀ p < k, a ≠ (s.dec.idx + p) % s.par.batch) :
    qCell (walkPeriods f n g k s) r a = qCell s r a := by
  refine walkPeriods_kept (cell := fun t => qCell t r a) fun p hp => ?_
  rw [qCell_samplePeriod, if_neg (not_written_of_other hidx hp h)]

theorem micCell_walkPeriods_kept (hidx : s.dec.idx < s.par.batch) {a : Nat}
    (h : ∀ p < k, a ≠ (s.dec.idx + p) % s.par.batch) :
    micCell (walkPeriods f n g k s) a = micCell s a := by
  refine walkPeriods_kept (cell := fun t => micCell t a) fun p hp => ?_
  rw [micCell_samplePeriod, walkPeriods_idx f n g p s hidx, if_neg (h p hp)]

end

/-- Settles O14: the stored and the kept cells of the walk, from the state after the status, whose cells,
index and batch are those before. -/
theorem decodeStoresSamples : Obligations.DecodeStoresSamples := by
  intro f now s hrun hidx hn hfit
  have hidx' : (takeStatus f s).dec.idx < (takeStatus f s).par.batch := hidx
  refine ⟨acceptFrame f s, exec_decodeOk_of_run hrun f now, fun p hp r hr => ⟨?_, ?_⟩, fun p hp => ?_,
    fun r a h => ⟨?_, ?_⟩, fun a h => ?_⟩
  · exact iCell_walkPeriods_stored hidx' hfit hn hp hr
  · exact qCell_walkPeriods_stored hidx' hfit hn hp hr
  · exact micCell_walkPeriods_stored hidx' hfit hp
  · exact iCell_walkPeriods_kept hidx' h
  · exact qCell_walkPeriods_kept hidx' h
  · exact micCell_walkPeriods_kept hidx' h

/-! ### The counting law -/

@[simp] theorem micCount_append (l m : List Event) : micCount (l ++ m) = micCount l + micCount m :=
  List.countP_append

@[simp] theorem readyCount_append (l m : List Event) : readyCount (l ++ m) = readyCount l + readyCount m :=
  List.countP_append

/-- A sample period has one `Mic` event. -/
theorem samplePeriod_micCount (f : Vector Byte 512) (n : Nat) (g : Rat) (s : State) (p : Nat) :
    micCount (samplePeriod f n g s p).trace = micCount s.trace + 1 := by
  rw [samplePeriod_trace, micCount_append]
  split <;> simp [micCount]

/-- A sample period has one `ReadyForDsp` event a receiver where it fills the batch, and none elsewhere. -/
theorem samplePeriod_readyCount (f : Vector Byte 512) (n : Nat) (g : Rat) (s : State) (p : Nat) :
    readyCount (samplePeriod f n g s p).trace =
      readyCount s.trace + if s.dec.idx + 1 = s.par.batch then n else 0 := by
  rw [samplePeriod_trace, readyCount_append]
  split <;> simp [readyCount, Function.comp_def]

/-- From `s` to `t`, `k` sample periods of `n` receivers have gone by: the index, the `Mic` events and the
hand-offs are those of R151, under the same parameters. -/
structure Counted (n k : Nat) (s t : State) : Prop where
  par : t.par = s.par
  idx : t.dec.idx = (s.dec.idx + k) % s.par.batch
  mic : micCount t.trace = micCount s.trace + k
  ready : readyCount t.trace = readyCount s.trace + n * ((s.dec.idx + k) / s.par.batch)

theorem Counted.refl (n : Nat) {s : State} (h : s.dec.idx < s.par.batch) : Counted n 0 s s where
  par := rfl
  idx := (Nat.mod_eq_of_lt h).symm
  mic := rfl
  ready := by simp [Nat.div_eq_of_lt h]

/-- Counting on from where the index is: the hand-offs add up, as `idx` holds the remainder. -/
theorem Counted.trans {n j k : Nat} {s t u : State} (h : Counted n j s t) (h' : Counted n k t u)
    (hb : 0 < s.par.batch) : Counted n (j + k) s u where
  par := h'.par.trans h.par
  idx := by rw [h'.idx, h.par, h.idx, Nat.mod_add_mod, Nat.add_assoc]
  mic := by rw [h'.mic, h.mic, Nat.add_assoc]
  ready := by
    have hdiv : (s.dec.idx + (j + k)) / s.par.batch = (s.dec.idx + j) / s.par.batch +
        ((s.dec.idx + j) % s.par.batch + k) / s.par.batch :=
      calc (s.dec.idx + (j + k)) / s.par.batch
          = (s.par.batch * ((s.dec.idx + j) / s.par.batch) + ((s.dec.idx + j) % s.par.batch + k)) /
              s.par.batch := by rw [← Nat.add_assoc, ← Nat.add_assoc, Nat.div_add_mod]
        _ = _ := Nat.mul_add_div hb _ _
    rw [h'.ready, h.par, h.idx, h.ready, hdiv, Nat.mul_add, Nat.add_assoc]

theorem Counted.idx_lt {n k : Nat} {s t : State} (h : Counted n k s t) (hb : 0 < s.par.batch) :
    t.dec.idx < t.par.batch := by
  rw [h.idx, h.par]
  exact Nat.mod_lt _ hb

/-- One period: one `Mic` event, and a hand-off exactly when the index wraps. -/
theorem Counted.samplePeriod (f : Vector Byte 512) (n : Nat) (g : Rat) (p : Nat) {s : State}
    (h : s.dec.idx < s.par.batch) : Counted n 1 s (samplePeriod f n g s p) where
  par := by
    obtain ⟨-, -, -, d, es, ht⟩ := DecFrame.samplePeriod f n g s p
    rw [ht]
  idx := by
    rw [samplePeriod_eq, advanceIdx_idx] <;> simp [h]
  mic := samplePeriod_micCount f n g s p
  ready := by
    rw [samplePeriod_readyCount]
    split
    · rename_i hwrap
      rw [hwrap, Nat.div_self (by omega), Nat.mul_one]
    · rw [Nat.div_eq_of_lt (by omega), Nat.mul_zero]

theorem Counted.walkPeriods (f : Vector Byte 512) (n : Nat) (g : Rat) (k : Nat) {s : State}
    (h : s.dec.idx < s.par.batch) : Counted n k s (walkPeriods f n g k s) := by
  induction k with
  | zero => exact Counted.refl n h
  | succ k ih =>
    rw [walkPeriods_succ]
    exact ih.trans (Counted.samplePeriod f n g k (ih.idx_lt (by omega))) (by omega)

/-- An accepted frame counts its `P(N)` periods: `Status` is neither a `Mic` nor a hand-off. -/
theorem Counted.acceptFrame (f : Vector Byte 512) {s : State} (h : s.dec.idx < s.par.batch) :
    Counted s.cfg.nrx.toNat (periodCount s.cfg.nrx.toNat) s (acceptFrame f s) := by
  have hwalk := Counted.walkPeriods f s.cfg.nrx.toNat s.cfg.micGain (periodCount s.cfg.nrx.toNat)
    (s := takeStatus f s) h
  have hmic : micCount (takeStatus f s).trace = micCount s.trace := by simp [takeStatus, micCount]
  have hready : readyCount (takeStatus f s).trace = readyCount s.trace := by simp [takeStatus, readyCount]
  exact ⟨hwalk.par, hwalk.idx, hmic ▸ hwalk.mic, hready ▸ hwalk.ready⟩

/-- A running block's step at a frame whose SYNC matches counts the frame's periods and leaves the block
running, under its configuration, with the rest of the script. -/
theorem step_acceptedFrame {s : State} {f : Vector Byte 512} {now : Nat} {rest : List Request}
    (hrun : s.run = true) (hidx : s.dec.idx < s.par.batch) (hsync : syncMatches s.par f = true)
    (hscript : s.script = .decode (.bytes f.toList) now :: rest) :
    ∃ t, step s = .next t ∧ t.run = true ∧ t.cfg = s.cfg ∧ t.script = rest ∧
      Counted s.cfg.nrx.toNat (periodCount s.cfg.nrx.toNat) s t := by
  have hrun' : (s.withScript rest).run = true := hrun
  obtain ⟨hpar, hidx', hmic, hready⟩ := Counted.acceptFrame f (s := s.withScript rest) hidx
  refine ⟨acceptFrame f (s.withScript rest), ?_, (acceptFrame_run f _).trans hrun,
    acceptFrame_cfg f _, acceptFrame_script f _, hpar, hidx', hmic, hready⟩
  rw [step_cons hscript (decode_frame_of_syncMatches hsync now)]
  exact exec_decodeOk_of_run hrun' f now

/-- The counting law over a script of accepted frames, frame by frame. -/
theorem run_acceptedFrames (fs : List (Vector Byte 512 × Nat)) (s : State) (hrun : s.run = true)
    (hidx : s.dec.idx < s.par.batch) (hsync : ∀ x ∈ fs, syncMatches s.par x.1 = true)
    (hscript : s.script = fs.map fun x => Request.decode (.bytes x.1.toList) x.2) :
    ∃ t, core.run fs.length s = .next t ∧
      Counted s.cfg.nrx.toNat (fs.length * periodCount s.cfg.nrx.toNat) s t := by
  induction fs generalizing s with
  | nil => exact ⟨s, rfl, by simpa using Counted.refl _ hidx⟩
  | cons x fs ih =>
    obtain ⟨hx, hfs⟩ := List.forall_mem_cons.1 hsync
    have hb : 0 < s.par.batch := by omega
    obtain ⟨u, hstep, hrunu, hcfg, hscriptu, hfirst⟩ := step_acceptedFrame hrun hidx hx hscript
    obtain ⟨t, hrest, hcounted⟩ := ih u hrunu (hfirst.idx_lt hb) (by rwa [hfirst.par]) hscriptu
    refine ⟨t, (run_succ_of_step hstep _).trans hrest, ?_⟩
    rw [hcfg] at hcounted
    rw [List.length_cons, Nat.succ_mul, Nat.add_comm]
    exact hfirst.trans hcounted hb

/-- A sync-lost frame, running or not, moves no index and counts for nothing. -/
theorem exec_decodeSynclost_counts (f : Vector Byte 512) (now : Nat) (s : State) :
    ∃ t, exec (.decodeSynclost f now) s = .next t ∧ t.dec.idx = s.dec.idx ∧
      micCount t.trace = micCount s.trace ∧ readyCount t.trace = readyCount s.trace := by
  refine ⟨_, whenRunning_eq s _, ?_⟩
  split
  · rw [raise_syncLost]
    split
    · simp [micCount, readyCount]
    · exact ⟨rfl, rfl, rfl⟩
  · simp [micCount, readyCount]

/-- Settles O16: the sync-lost clause, and the law over a script of accepted frames. -/
theorem countingLawOverFrames : Obligations.CountingLawOverFrames := by
  refine ⟨exec_decodeSynclost_counts, fun fs s hrun hidx hsync hscript => ?_⟩
  obtain ⟨t, ht, hcounted⟩ := run_acceptedFrames fs s hrun hidx hsync hscript
  exact ⟨t, ht, hcounted.idx, hcounted.mic, hcounted.ready⟩

end Sys2Proof.Machine
end

section
/-! ENC, the frame encoder: the half-frame it returns, and the round trip through DECODE (R170, R171). -/

namespace Sys2Proof.Machine

/-! ### ENCODE -/

/-- The half-frame as a byte string. -/
theorem toList_halfFrame (p : Params) (x : Vector Byte 5) (y : Vector Byte 504) :
    (halfFrame p x y).toList = p.sync.toList ++ x.toList ++ y.toList := by
  simp only [halfFrame, ← Vector.toList_toArray, Vector.toArray_cast, Vector.toArray_append,
    Array.toList_append]

/-- Settles O19: the frame is `halfFrame`, and `answer` appends to the results alone. -/
theorem encodeReturnsTheHalfFrame : Obligations.EncodeReturnsTheHalfFrame := fun x p s =>
  ⟨halfFrame s.par x p, toList_halfFrame s.par x p, rfl⟩

/-- The step at an ENCODE whose operands are written out. -/
theorem step_encode {s : State} {x : Vector Byte 5} {p : Vector Byte 504} {rest : List Request}
    (h : s.script = .encode (.bytes x.toList) p.toList :: rest) :
    step s = .next ((s.withScript rest).answer (.frame (halfFrame s.par x p))) := by
  have hd : decode (fetchContext s) (.encode (.bytes x.toList) p.toList) = .ok (.encode x p) := by
    simp [decode, ctrlArg, ofLength_toList]
  rw [step_cons h hd]
  rfl

/-! ### The frame ENCODE returned, presented to DECODE -/

/-- A running block's step at `LAST` accepts the frame of the last ENCODE where its SYNC matches. -/
theorem step_decode_last {s : State} {f : Vector Byte 512} {now : Nat} {rest : List Request}
    (hrun : s.run = true) (hlast : lastFrame s = some f) (hsync : syncMatches s.par f = true)
    (h : s.script = .decode .last now :: rest) : step s = .next (acceptFrame f (s.withScript rest)) := by
  have hd : decode (fetchContext s) (.decode .last now) = .ok (.decodeOk f now) := by
    simp [decode, frameArg, fetchContext, hlast, decodeRow, hsync]
  rw [step_cons h hd]
  exact exec_decodeOk_of_run (s := s.withScript rest) hrun f now

/-- What was appended to the trace decides whether an operation was refused. -/
theorem notRefused_of_trace {s t : State} {es : List Event} (ht : t.trace = s.trace ++ es)
    (hes : ∀ why, Event.refused why ∉ es) : notRefused s t = true := by
  simp only [notRefused, ht, List.drop_left, List.all_eq_true]
  intro e he
  cases e with
  | refused why => exact absurd he (hes why)
  | _ => rfl

/-- An accepted frame is not refused: after `Status` come the events of the walk only. -/
theorem acceptFrame_notRefused (f : Vector Byte 512) (s : State) : notRefused s (acceptFrame f s) = true := by
  obtain ⟨es, htrace, hes⟩ := walkPeriods_events f s.cfg.nrx.toNat s.cfg.micGain
    (periodCount s.cfg.nrx.toNat) (takeStatus f s)
  have happend : (acceptFrame f s).trace = s.trace ++ .status (statusBytes f) :: es := by
    rw [acceptFrame, htrace]
    simp [takeStatus]
  refine notRefused_of_trace happend fun why hmem => ?_
  obtain ⟨⟨⟩⟩ | hwalk := List.mem_cons.1 hmem
  obtain ⟨q, ⟨⟩⟩ | ⟨r, i, q, ⟨⟩⟩ := hes _ hwalk

/-- The two steps of the round trip: the frame just returned is the one `LAST` names, and its SYNC matches. -/
theorem run_encode_decode_last {s : State} {x : Vector Byte 5} {p : Vector Byte 504} {now : Nat}
    {rest : List Request} (hrun : s.run = true)
    (h : s.script = .encode (.bytes x.toList) p.toList :: .decode .last now :: rest) :
    core.run 2 s = .next (acceptFrame (halfFrame s.par x p)
      ((s.withScript rest).answer (.frame (halfFrame s.par x p)))) := by
  rw [run_succ_of_step (step_encode h)]
  exact run_succ_of_step (step_decode_last (s := (s.withScript (.decode .last now :: rest)).answer _) hrun
    (lastFrame_answer_frame _ _) (syncMatches_halfFrame s.par x p) rfl) 0

/-- Settles O20: the run ends in `acceptFrame` of the encoded frame, whose status bytes are the control
bytes. -/
theorem encodedFrameDecodesToItsControlBytes : Obligations.EncodedFrameDecodesToItsControlBytes := by
  intro x p now s rest hrun hscript
  have hstatus := statusBytes_halfFrame s.par x p
  obtain ⟨-, -, hstored, -⟩ := DecFrame.acceptFrame (halfFrame s.par x p)
    ((s.withScript rest).answer (.frame (halfFrame s.par x p)))
  obtain ⟨es, htrace⟩ := acceptFrame_trace (halfFrame s.par x p)
    ((s.withScript rest).answer (.frame (halfFrame s.par x p)))
  rw [hstatus] at htrace
  exact ⟨⟨_, rfl, hstatus⟩, _, run_encode_decode_last hrun hscript, hstored.trans hstatus,
    acceptFrame_script _ _, acceptFrame_notRefused _ ((s.withScript rest).answer _), es, htrace⟩

end Sys2Proof.Machine
end

section
/-! SEQ, the sequence unit: TX_WRITE and the law of its numbers, GAP_CHECK and HWCMD (R175 to R180). -/

namespace Sys2Proof.Machine

/-! ### TX_WRITE, one write -/

/-- A stopped block refuses both rows of TX_WRITE and changes nothing but the trace. -/
theorem exec_txWrite_stopped {s : State} (h : s.run = false) (o : Vector Byte 512) :
    exec (.txWriteHdr o) s = .next { s with trace := s.trace ++ [.refused .notRunning] } ∧
      exec (.txWriteNohdr o) s = .next { s with trace := s.trace ++ [.refused .notRunning] } :=
  ⟨whenRunning_stopped h _, whenRunning_stopped h _⟩

/-- START of a stopped block. -/
theorem exec_start_stopped {s : State} (h : s.run = false) : exec .start s = .next (startBlock s) := by
  simp [exec, execStart, h]

/-- The step at START of a stopped block. -/
theorem step_start_stopped {s : State} {rest : List Request} (h : s.run = false)
    (hscript : s.script = .start :: rest) : step s = .next (startBlock (s.withScript rest)) :=
  (step_cons hscript rfl).trans (exec_start_stopped (s := s.withScript rest) h)

@[simp] theorem startBlock_par (s : State) : (startBlock s).par = s.par := rfl
@[simp] theorem startBlock_run (s : State) : (startBlock s).run = true := rfl
@[simp] theorem startBlock_sq (s : State) : (startBlock s).sq = SeqRegs.reset := rfl
@[simp] theorem startBlock_results (s : State) : (startBlock s).results = s.results := rfl
@[simp] theorem startBlock_script (s : State) : (startBlock s).script = s.script := rfl

/-- Settles O21: the running rows append one datagram and write SEQ's registers, and START puts them at
their reset values. -/
theorem txWriteAlternatesTheHeader : Obligations.TxWriteAlternatesTheHeader := by
  refine fun o s => ⟨fun hrun => ?_, fun hrun => whenRunning_run hrun _,
    fun hstop => exec_txWrite_stopped hstop o,
    fun hstop => ⟨_, exec_start_stopped hstop, startBlock_run s, rfl⟩⟩
  rw [← bytesBE]
  exact whenRunning_run hrun _

/-- The write of the row that `hdr_phase` selects. -/
def writeByPhase (o : Vector Byte 512) (s : State) : State :=
  if s.sq.hdrPhase then writeRaw o s else writeWithHeader o s

theorem writeByPhase_of_raw {s : State} (h : s.sq.hdrPhase = true) (o : Vector Byte 512) :
    writeByPhase o s = writeRaw o s := by simp [writeByPhase, h]

theorem writeByPhase_of_header {s : State} (h : s.sq.hdrPhase = false) (o : Vector Byte 512) :
    writeByPhase o s = writeWithHeader o s := by simp [writeByPhase, h]

theorem writeByPhase_run (o : Vector Byte 512) (s : State) : (writeByPhase o s).run = s.run := by
  unfold writeByPhase
  split <;> rfl

theorem writeByPhase_script (o : Vector Byte 512) (s : State) : (writeByPhase o s).script = s.script := by
  unfold writeByPhase
  split <;> rfl

/-- A running block's step at a TX_WRITE makes the write its phase selects. -/
theorem step_txWrite {s : State} {o : Vector Byte 512} {rest : List Request} (hrun : s.run = true)
    (h : s.script = .txWrite (.bytes o.toList) :: rest) :
    step s = .next (writeByPhase o (s.withScript rest)) := by
  have hrun' : (s.withScript rest).run = true := hrun
  cases hphase : s.sq.hdrPhase with
  | true =>
    have hd : decode (fetchContext s) (.txWrite (.bytes o.toList)) = .ok (.txWriteNohdr o) := by
      simp [decode, frameArg, ofLength_toList, fetchContext, hphase]
    rw [step_cons h hd, writeByPhase_of_raw (s := s.withScript rest) hphase]
    exact whenRunning_run hrun' _
  | false =>
    have hd : decode (fetchContext s) (.txWrite (.bytes o.toList)) = .ok (.txWriteHdr o) := by
      simp [decode, frameArg, ofLength_toList, fetchContext, hphase]
    rw [step_cons h hd, writeByPhase_of_header (s := s.withScript rest) hphase]
    exact whenRunning_run hrun' _

/-! ### TX_WRITE, any number of writes -/

/-- The number of the first write that bears the header, counting from phase `b`. -/
def firstHeader (b : Bool) : Nat := if b then 1 else 0

/-- The bytes of write number `k`, with half-frame `o`, counting from phase `b` and number `q` (R177). -/
def writeBytes (p : Params) (b : Bool) (q : BitVec 32) (k : Nat) (o : Vector Byte 512) : List Byte :=
  if k % 2 = firstHeader b then datagramHeader p (q + BitVec.ofNat 32 (k / 2)) ++ o.toList else o.toList

theorem writeBytes_zero_of_header (p : Params) (q : BitVec 32) (o : Vector Byte 512) :
    writeBytes p false q 0 o = datagramHeader p q ++ o.toList := by simp [writeBytes, firstHeader]

theorem writeBytes_zero_of_raw (p : Params) (q : BitVec 32) (o : Vector Byte 512) :
    writeBytes p true q 0 o = o.toList := by simp [writeBytes, firstHeader]

/-- After a write that bore the header, the writes count from phase 1 and the next number. -/
theorem writeBytes_succ_of_header (p : Params) (q : BitVec 32) (k : Nat) (o : Vector Byte 512) :
    writeBytes p false q (k + 1) o = writeBytes p true (q + 1#32) k o := by
  by_cases hk : k % 2 = 1
  · have hhalf : (k + 1) / 2 = k / 2 + 1 := by omega
    have hparity : (k + 1) % 2 = 0 := by omega
    have hnext : q + BitVec.ofNat 32 (k / 2 + 1) = q + 1#32 + BitVec.ofNat 32 (k / 2) := by
      rw [Nat.add_comm, BitVec.ofNat_add, BitVec.add_assoc]
    simp [writeBytes, firstHeader, hk, hhalf, hparity, hnext]
  · have hparity : (k + 1) % 2 ≠ 0 := by omega
    simp [writeBytes, firstHeader, hk, hparity]

/-- After a raw write, the writes count from phase 0 and the same number. -/
theorem writeBytes_succ_of_raw (p : Params) (q : BitVec 32) (k : Nat) (o : Vector Byte 512) :
    writeBytes p true q (k + 1) o = writeBytes p false q k o := by
  by_cases hk : k % 2 = 0
  · have hhalf : (k + 1) / 2 = k / 2 := by omega
    have hparity : (k + 1) % 2 = 1 := by omega
    simp [writeBytes, firstHeader, hk, hhalf, hparity]
  · have hparity : (k + 1) % 2 ≠ 1 := by omega
    simp [writeBytes, firstHeader, hk, hparity]

/-- From `s` to `t`, the half-frames `os` have been written one after another: what was returned, `seq` and
the phase are those of R177. -/
structure Wrote (os : List (Vector Byte 512)) (s t : State) : Prop where
  results : t.results = s.results ++
    os.mapIdx fun k o => .datagram (writeBytes s.par s.sq.hdrPhase s.sq.seq k o)
  seq : t.sq.seq = s.sq.seq + BitVec.ofNat 32 ((os.length + 1 - firstHeader s.sq.hdrPhase) / 2)
  phase : t.sq.hdrPhase = ((firstHeader s.sq.hdrPhase + os.length) % 2 == 1)

theorem Wrote.nil (s : State) : Wrote [] s s where
  results := by simp
  seq := by cases s.sq.hdrPhase <;> simp [firstHeader]
  phase := by cases s.sq.hdrPhase <;> rfl

/-- A write that bears the header, and the writes after it. -/
theorem Wrote.cons_header {o : Vector Byte 512} {os : List (Vector Byte 512)} {s t : State}
    (hphase : s.sq.hdrPhase = false) (h : Wrote os (writeWithHeader o s) t) : Wrote (o :: os) s t where
  results := by
    rw [h.results, hphase]
    simp [writeWithHeader, List.mapIdx_cons, writeBytes_zero_of_header, writeBytes_succ_of_header]
  seq := by
    have hcount : (os.length + 1 + 1) / 2 = 1 + os.length / 2 := by omega
    rw [h.seq, hphase]
    simp [writeWithHeader, firstHeader, hcount, BitVec.ofNat_add, BitVec.add_assoc]
  phase := by
    rw [h.phase, hphase]
    simp [writeWithHeader, firstHeader, Nat.add_comm]

/-- A raw write, and the writes after it. -/
theorem Wrote.cons_raw {o : Vector Byte 512} {os : List (Vector Byte 512)} {s t : State}
    (hphase : s.sq.hdrPhase = true) (h : Wrote os (writeRaw o s) t) : Wrote (o :: os) s t where
  results := by
    rw [h.results, hphase]
    simp [writeRaw, List.mapIdx_cons, writeBytes_zero_of_raw, writeBytes_succ_of_raw]
  seq := by
    rw [h.seq, hphase]
    simp [writeRaw, firstHeader]
  phase := by
    have hparity : (1 + (os.length + 1)) % 2 = os.length % 2 := by omega
    rw [h.phase, hphase]
    simp [writeRaw, firstHeader, hparity]

/-- The write the phase selects, and the writes after it. -/
theorem Wrote.cons {o : Vector Byte 512} {os : List (Vector Byte 512)} {s t : State}
    (h : Wrote os (writeByPhase o s) t) : Wrote (o :: os) s t := by
  cases hphase : s.sq.hdrPhase with
  | true => exact .cons_raw hphase (writeByPhase_of_raw hphase o ▸ h)
  | false => exact .cons_header hphase (writeByPhase_of_header hphase o ▸ h)

/-- The sequence law over a script of writes, write by write. -/
theorem run_txWrites (os : List (Vector Byte 512)) (s : State) (hrun : s.run = true)
    (hscript : s.script = os.map fun o => Request.txWrite (.bytes o.toList)) :
    ∃ t, core.run os.length s = .next t ∧ Wrote os s t := by
  induction os generalizing s with
  | nil => exact ⟨s, rfl, .nil s⟩
  | cons o os ih =>
    obtain ⟨t, hrest, hwrote⟩ := ih
      (writeByPhase o (s.withScript (os.map fun o => Request.txWrite (.bytes o.toList))))
      ((writeByPhase_run o _).trans hrun) (writeByPhase_script o _)
    obtain ⟨hresults, hseq, hphase⟩ := hwrote.cons
    exact ⟨t, (run_succ_of_step (step_txWrite hrun hscript) _).trans hrest, hresults, hseq, hphase⟩

/-- Settles O22: `run_txWrites`, from START's reset of SEQ and from any running state. -/
theorem sequenceNumbersAreConsecutive : Obligations.SequenceNumbersAreConsecutive := by
  refine ⟨fun os s hstop hscript => ?_, fun o s hstop => exec_txWrite_stopped hstop o,
    fun os s hrun hscript => ?_⟩
  · obtain ⟨t, hrest, hwrote⟩ := run_txWrites os (startBlock (s.withScript _)) (startBlock_run _)
      (startBlock_script _)
    refine ⟨t, (run_succ_of_step (step_start_stopped hstop hscript) _).trans hrest, hwrote.results.trans ?_⟩
    simp [writeBytes, firstHeader, SeqRegs.reset]
  · obtain ⟨t, hall, hwrote⟩ := run_txWrites os s hrun hscript
    exact ⟨t, hall, hwrote.results, hwrote.seq, hwrote.phase⟩

/-! ### GAP_CHECK and HWCMD -/

/-- The gap test and the tracker, on the state's fields (R178). -/
theorem checkGap_eq (q : BitVec 32) (s : State) : checkGap q s =
    { s with sq := { s.sq with lastSeen := q, lastSeenValid := true },
             trace := s.trace ++ (if s.sq.lastSeenValid = true ∧ q ≠ s.sq.lastSeen + 1#32 then
               [.sequenceGap (s.sq.lastSeen + 1#32) q] else []) } := by
  by_cases hgap : s.sq.lastSeenValid = true ∧ q ≠ s.sq.lastSeen + 1#32
  · simp [checkGap, expectedSeq, hgap, raise, State.emit, State.withSq]
  · have hnone : (s.sq.lastSeenValid && q != expectedSeq s) = false := by
      simpa [expectedSeq] using hgap
    simp [checkGap, hnone, hgap, State.withSq]

/-- Settles O23: `checkGap_eq` while running, the refusal while stopped. -/
theorem gapCheckReportsAndFollows : Obligations.GapCheckReportsAndFollows := by
  refine fun q s => ⟨fun hrun => ?_, fun hstop => whenRunning_stopped hstop _⟩
  rw [← checkGap_eq]
  exact whenRunning_run hrun _

/-- Settles O25: each row answers its byte of `hwcmdByte` (R104), whatever the state. -/
theorem hwcmdReturnsItsByte : Obligations.HwcmdReturnsItsByte := fun _ => ⟨rfl, rfl, rfl⟩

end Sys2Proof.Machine
end

section
/-! CCG, the control-byte generator: what the default layout puts into the five bytes of a state, and what
CC1 to CC7 send (R198 to R210). -/

namespace Sys2Proof.Machine

/-! ### The filter table -/

/-- The first row of the table decides, or else the rows below it. -/
theorem lpfMask_cons (r : LpfRow) (rows : List LpfRow) (o : BitVec 7) (f : BitVec 32) :
    lpfMask ⟨r :: rows, o⟩ f = if r.above < f.toNat then r.mask else lpfMask ⟨rows, o⟩ f := by
  by_cases h : r.above < f.toNat <;> simp [lpfMask, h]

/-- A table without rows gives its last mask. -/
theorem lpfMask_nil (o : BitVec 7) (f : BitVec 32) : lpfMask ⟨[], o⟩ f = o := rfl

/-- Whatever the frequency, the mask is one the table lists. -/
theorem lpfMask_mem (t : LpfTable) (f : BitVec 32) : lpfMask t f ∈ t.otherwise :: t.rows.map LpfRow.mask := by
  unfold lpfMask
  split
  · next r hfind => exact .tail _ (List.mem_map_of_mem (List.mem_of_find?_eq_some hfind))
  · exact .head _

/-- Settles O39: the rows of the default table are met from the top, and each mask it lists has one bit. -/
theorem lpfTableThresholds : Obligations.LpfTableThresholds := by
  have one_bit : ∀ m ∈ defaultLpf.otherwise :: defaultLpf.rows.map LpfRow.mask, ∃ b < 7, m = 1#7 <<< b := by
    decide
  intro f
  refine ⟨?_, one_bit _ (lpfMask_mem defaultLpf f)⟩
  simp only [defaultLpf, lpfMask_cons, lpfMask_nil]

/-! ### The eight rows of CC_STEP -/

theorem exec_cc0 (s : State) : exec .cc0 s = ccStep s (ccBody0 s) := rfl
theorem exec_cc1 (s : State) : exec .cc1 s = ccStep s (ccBody1 s) := rfl
theorem exec_cc2 (s : State) : exec .cc2 s = ccStep s (ccBody2 s) := rfl
theorem exec_cc3 (s : State) : exec .cc3 s = ccStep s (ccBody3 s) := rfl
theorem exec_cc4 (s : State) : exec .cc4 s = ccStep s (ccBody4 s) := rfl
theorem exec_cc5 (s : State) : exec .cc5 s = ccStep s (ccBody5 s) := rfl
theorem exec_cc6 (s : State) : exec .cc6 s = ccStep s (ccBody6 s) := rfl
theorem exec_cc7 (s : State) : exec .cc7 s = ccStep s (ccBody7 s) := rfl

/-- Each of the eight rows of CC_STEP is `ccStep` around the body of its state. -/
theorem exec_cc_eq_ccStep {i : Instr} (hi : i ∈ [Instr.cc0, .cc1, .cc2, .cc3, .cc4, .cc5, .cc6, .cc7])
    (s : State) : ∃ body, exec i s = ccStep s body := by
  simp only [List.mem_cons, List.not_mem_nil, or_false] at hi
  rcases hi with rfl | rfl | rfl | rfl | rfl | rfl | rfl | rfl
  · exact ⟨_, exec_cc0 s⟩
  · exact ⟨_, exec_cc1 s⟩
  · exact ⟨_, exec_cc2 s⟩
  · exact ⟨_, exec_cc3 s⟩
  · exact ⟨_, exec_cc4 s⟩
  · exact ⟨_, exec_cc5 s⟩
  · exact ⟨_, exec_cc6 s⟩
  · exact ⟨_, exec_cc7 s⟩

/-! ### The MOX bit -/

/-- A CC_STEP that refuses nothing leaves the MOX bit in C0, whatever bytes its state decided (R210). -/
theorem ccStep_moxBit {s t : State} {body : CcOutcome} (h : ccStep s body = .next t)
    (htrace : t.trace = s.trace) : t.ccg.cc[0].getLsbD s.par.layout.moxBit = moxBit s := by
  obtain ⟨why, rfl⟩ | ⟨-, b, next, u, -, rfl⟩ := ccStep_cases h
  · simp at htrace
  · rw [withCcg_ccg, withMox_first]
    exact getLsbD_setBit _ _ s.par.layout.moxBit.isLt _

/-- Settles O41: every row is a `ccStep`, and `ccStep` adjusts the bit after its state's body. -/
theorem moxBitAfterEveryState : Obligations.MoxBitAfterEveryState := by
  refine ⟨rfl, fun s t _ i hi h htrace => ?_⟩
  obtain ⟨body, hbody⟩ := exec_cc_eq_ccStep hi s
  exact ccStep_moxBit (hbody.symm.trans h) htrace

/-- Under the default layout the MOX bit is bit 0 of C0, and the other four bytes stay. -/
theorem withMox_default {s : State} (h : s.par.layout = defaultLayout) (b : Vector Byte 5) :
    withMox s b = #v[if moxBit s then b[0] ||| 1#8 else b[0] &&& 0xFE#8, b[1], b[2], b[3], b[4]] := by
  have hmox : s.par.layout.moxBit.val = 0 := by rw [h]; rfl
  refine Vector.ext fun i hi => ?_
  interval_cases i
  · rw [withMox_first, hmox]
    rfl
  all_goals exact withMox_other s b _ hi (by decide)

/-! ### The bytes of a state under the default layout -/

section
variable {s : State} (h : s.par.layout = defaultLayout)
include h

/-- A byte in which the default layout puts nothing. -/
theorem layoutByte_of_no_row {k : Fin 8} {b : Fin 5}
    (hrows : (defaultLayout.rows.filter fun r => r.state == k && r.byte == b) = []) (f : BitVec 32) :
    layoutByte s k f b = 0#8 := by
  rw [layoutByte_eq h, hrows, List.foldl_nil]

/-- A byte in which the default layout puts one field, from bit `lo` upwards. -/
theorem layoutByte_of_row {k : Fin 8} {b : Fin 5} {x : CcField} {lo : Nat}
    (hrows : (defaultLayout.rows.filter fun r => r.state == k && r.byte == b) = [⟨k, x, b, lo⟩]) (f : BitVec 32) :
    layoutByte s k f b = ccField s f x <<< lo := by
  rw [layoutByte_eq h, hrows, List.foldl_cons, List.foldl_nil, BitVec.zero_or]

/-- A byte in which the default layout puts one field, from bit 0 upwards. -/
theorem layoutByte_of_field {k : Fin 8} {b : Fin 5} {x : CcField}
    (hrows : (defaultLayout.rows.filter fun r => r.state == k && r.byte == b) = [⟨k, x, b, 0⟩]) (f : BitVec 32) :
    layoutByte s k f b = ccField s f x := by
  rw [layoutByte_of_row h hrows, BitVec.shiftLeft_zero]

/-- A byte in which the default layout puts one field from bit 0 and another from bit `lo` upwards. -/
theorem layoutByte_of_two_fields {k : Fin 8} {b : Fin 5} {x y : CcField} {lo : Nat}
    (hrows : (defaultLayout.rows.filter fun r => r.state == k && r.byte == b) = [⟨k, x, b, 0⟩, ⟨k, y, b, lo⟩])
    (f : BitVec 32) : layoutByte s k f b = ccField s f x ||| ccField s f y <<< lo := by
  rw [layoutByte_eq h, hrows, List.foldl_cons, List.foldl_cons, List.foldl_nil, BitVec.zero_or,
    BitVec.shiftLeft_zero]

/-- The running block's CC_STEP in a state that sends no receiver's frequency: C0 of the default layout
with MOX in its bit 0, then what the layout puts into C1 to C4. -/
theorem ccStep_stateBytes (hrun : s.run = true) (k : Fin 8) (next : BitVec 3) (t : State) :
    ccStep s (.done (stateBytes s k) next t) = .next (t.withCcg { t.ccg with
      cc := #v[if moxBit s then defaultLayout.c0[k] ||| 1#8 else defaultLayout.c0[k],
        layoutByte s k 0#32 1, layoutByte s k 0#32 2, layoutByte s k 0#32 3, layoutByte s k 0#32 4],
      rr := next }) := by
  have hclear : defaultLayout.c0[k] &&& 0xFE#8 = defaultLayout.c0[k] := by
    revert k
    decide
  rw [ccStep_done hrun, withMox_default h, stateBytes, layoutBytes_eq h, h]
  simp only [Vector.getElem_mk, List.getElem_toArray, List.getElem_cons_zero, List.getElem_cons_succ, hclear]

end

/-! ### CC1, CC3 and CC4 to CC7 -/

/-- Settles O34: state 1 sends the four slices of the TX frequency and clears its flag. -/
theorem cc1SendsTheTxFrequency : Obligations.Cc1SendsTheTxFrequency := by
  intro s hrun h
  rw [exec_cc1, ccBody1, ccStep_stateBytes h hrun, layoutByte_of_field h rfl, layoutByte_of_field h rfl,
    layoutByte_of_field h rfl, layoutByte_of_field h rfl]
  rfl

/-- The body of state 3 in one piece: where the routing agrees with the cache, storing it changes nothing. -/
theorem ccBody3_eq (s : State) : ccBody3 s = .done (stateBytes s 3)
    (if route s = s.ccg.adcCache then 5#3 else 4#3) (s.withCcg { s.ccg with adcCache := route s }) := by
  unfold ccBody3
  split
  · next hroute => rw [hroute]; rfl
  · rfl

/-- Settles O37: C1 and C4 hold one field each, and `ccBody3_eq` gives the cache and the next state. -/
theorem cc3SendsDriveAndFilter : Obligations.Cc3SendsDriveAndFilter := by
  intro s hrun h
  rw [exec_cc3, ccBody3_eq, ccStep_stateBytes h hrun, layoutByte_of_field h rfl, layoutByte_of_no_row h rfl,
    layoutByte_of_no_row h rfl, layoutByte_of_field h rfl]
  rfl

/-- Settles O40: each byte of states 4 to 7 holds the field, or the two, that the default layout puts there. -/
theorem cc4ToCc7SendTheirFields : Obligations.Cc4ToCc7SendTheirFields := by
  refine fun s hrun h => ⟨?_, ?_, ?_, ?_⟩
  · rw [exec_cc4, ccBody4, ccStep_stateBytes h hrun, layoutByte_of_field h rfl, layoutByte_of_field h rfl,
      layoutByte_of_field h rfl, layoutByte_of_field h rfl]
    rfl
  · rw [exec_cc5, ccBody5, ccStep_stateBytes h hrun, layoutByte_of_field h rfl, layoutByte_of_field h rfl,
      layoutByte_of_field h rfl, layoutByte_of_no_row h rfl]
    rfl
  · rw [exec_cc6, ccBody6, ccStep_stateBytes h hrun, layoutByte_of_field h rfl, layoutByte_of_field h rfl,
      layoutByte_of_field h rfl, layoutByte_of_field h rfl]
    rfl
  · rw [exec_cc7, ccBody7, ccStep_stateBytes h hrun, layoutByte_of_row h rfl, layoutByte_of_two_fields h rfl,
      layoutByte_of_field h rfl, layoutByte_of_no_row h rfl]
    rfl

/-! ### CC2 -/

/-- The countdown goes down by one and stays at 0 (R199). -/
theorem countDown_eq (s : State) : countDown s = s.withCcg { s.ccg with
    forceAll := if s.ccg.forceAll = 0#5 then 0#5 else s.ccg.forceAll - 1#5 } := by
  unfold countDown
  by_cases hzero : s.ccg.forceAll = 0#5
  · simp [hzero]
  · have hpos : 0 < s.ccg.forceAll.toNat := by bv_omega
    simp [hzero, hpos]

/-- No receiver is selected. -/
theorem ccBody2_of_none {s : State} (hsel : rxSelected s = none) :
    ccBody2 s = .done s.par.ctrlDefault 3#3 (countDown s) := by
  rw [ccBody2, hsel]

/-- The selected receiver has a command byte. -/
theorem ccBody2_of_some {s : State} {r : Nat} {x : Byte} (hsel : rxSelected s = some r)
    (hx : rxfreqC0At s.par r = some x) : ccBody2 s = .done (layoutBytes s 2 x (rxAt s r).freq) 3#3
      (countDown (putRx s r { rxAt s r with freqChanged := false })) := by
  simp only [ccBody2, hsel, hx]

/-- The selected receiver has none (R191). -/
theorem ccBody2_of_no_command {s : State} {r : Nat} (hsel : rxSelected s = some r)
    (hx : rxfreqC0At s.par r = none) : ccBody2 s = .refused .cfgRange := by
  simp only [ccBody2, hsel, hx]

theorem rxAt_of_lt (s : State) {r : Nat} (hr : r < 20) : rxAt s r = s.rx[r] := dif_pos hr

theorem rxfreqC0At_of_lt (p : Params) {r : Nat} (hr : r < 20) : rxfreqC0At p r = p.rxfreqC0[r] := dif_pos hr

theorem putRx_of_lt (s : State) {r : Nat} (hr : r < 20) (x : Rx) : putRx s r x = s.withRx (s.rx.set r x) := by
  have hset : s.rx.setIfInBounds r x = s.rx.set r x :=
    Vector.ext fun i hi => by rw [Vector.getElem_setIfInBounds, Vector.getElem_set]
  rw [putRx, hset]

/-- Settles O36: no receiver selected, one with a command byte, one without; the first case needs no layout to
be accepted. -/
theorem cc2SendsTheSelectedReceiver : Obligations.Cc2SendsTheSelectedReceiver := by
  refine fun s hrun => ⟨fun h hsel => ?_, fun r hr x h hsel hx => ?_, fun r hr hsel hx => ?_, fun hsel => ?_⟩
  · rw [exec_cc2, ccBody2_of_none hsel, ccStep_done hrun, withMox_default h, countDown_eq]
    rfl
  · rw [exec_cc2, ccBody2_of_some hsel ((rxfreqC0At_of_lt _ hr).trans hx), ccStep_done hrun, withMox_default h,
      countDown_eq, putRx_of_lt s hr, rxAt_of_lt s hr, layoutBytes_eq h, layoutByte_of_field h rfl,
      layoutByte_of_field h rfl, layoutByte_of_field h rfl, layoutByte_of_field h rfl]
    rfl
  · rw [exec_cc2, ccBody2_of_no_command hsel ((rxfreqC0At_of_lt _ hr).trans hx), ccStep_refused hrun]
    rfl
  · rw [exec_cc2, ccBody2_of_none hsel, ccStep_done hrun]
    exact ⟨_, rfl, rfl⟩

end Sys2Proof.Machine
end

section
/-! KEY, the keyer: the lengths of its elements, and what KEY_TICK does in each state (R221 to R245). -/

namespace Sys2Proof.Machine

/-! ### The lengths of the elements -/

/-- From the slowest legal speed down to the fastest, a dot lasts 1200 to 20 ticks (R221). -/
theorem dotLen_mem_range {k : Kcfg} (hslow : 1 ≤ k.speed.toNat) (hfast : k.speed.toNat ≤ 60) :
    20 ≤ dotLen k ∧ dotLen k ≤ 1200 :=
  ⟨(Nat.le_div_iff_mul_le hslow).2 (by omega), Nat.div_le_self _ _⟩

/-- A dash is longest with the longest dot and the heaviest weight (R221). -/
theorem dashLen_le {k : Kcfg} (hdot : dotLen k ≤ 1200) (hweight : k.weight.toNat ≤ 100) : dashLen k ≤ 7200 :=
  calc dashLen k
    _ ≤ 1200 * 3 * 100 / 50 := Nat.div_le_div_right (Nat.mul_le_mul (Nat.mul_le_mul_right 3 hdot) hweight)
    _ = 7200 := rfl

/-- Settles O43: the formulas are the definitions, and the ranges those of a dot and of a dash. -/
theorem elementLengthsInRange : Obligations.ElementLengthsInRange := by
  intro k hslow hfast hweight
  obtain ⟨hmin, hmax⟩ := dotLen_mem_range hslow hfast
  exact ⟨rfl, rfl, hmin, hmax, dashLen_le hmax hweight⟩

/-! ### CHECK, one equation for each of its cases -/

section
variable {s : State} {d h : Bool}

/-- In mode 0 the dash input holds the key that it put down. -/
theorem ruleCheck_held (hkey : s.kr.key = true) (hmode : s.kcfg.mode = 0#2) (hdash : h = true) :
    ruleCheck d h s = s := by
  simp [ruleCheck, hkey, hmode, hdash]

/-- Otherwise a key that is down is released. -/
theorem ruleCheck_release (hkey : s.kr.key = true) (hnot : s.kcfg.mode ≠ 0#2 ∨ h = false) :
    ruleCheck d h s = keyUp s := by
  have hheld : ((s.kcfg.mode == 0#2) && h) = false := by simpa [imp_iff_not_or] using hnot
  simp [ruleCheck, hkey, hheld]

/-- In mode 0 the dash input is a straight key. -/
theorem ruleCheck_straight (hkey : s.kr.key = false) (hmode : s.kcfg.mode = 0#2) (hdash : h = true) :
    ruleCheck d h s = keyDown s := by
  simp [ruleCheck, hkey, hmode, hdash]

/-- The dot paddle alone starts a dot, whatever the mode. -/
theorem ruleCheck_dot (hkey : s.kr.key = false) (hdot : d = true) (hdash : h = false) :
    ruleCheck d h s = enterDot h s := by
  simp [ruleCheck, hkey, hdot, hdash]

/-- Outside mode 0 the dash paddle alone starts a dash. -/
theorem ruleCheck_dash (hkey : s.kr.key = false) (hmode : s.kcfg.mode ≠ 0#2) (hdot : d = false)
    (hdash : h = true) : ruleCheck d h s = enterDash d s := by
  simp [ruleCheck, hkey, hmode, hdot, hdash]

/-- Outside mode 0 both paddles together are a tie. -/
theorem ruleCheck_tied (hkey : s.kr.key = false) (hmode : s.kcfg.mode ≠ 0#2) (hdot : d = true)
    (hdash : h = true) : ruleCheck d h s = enterTied d h s := by
  simp [ruleCheck, hkey, hmode, hdot, hdash]

/-- With nothing pressed the machine idles, whatever the mode. -/
theorem ruleCheck_idle (hkey : s.kr.key = false) (hdot : d = false) (hdash : h = false) :
    ruleCheck d h s = idle s := by
  simp [ruleCheck, hkey, hdot, hdash]

end

theorem withKr_kr_self (s : State) : s.withKr s.kr = s := rfl

/-- The machine leaves CHECK when hang time or a transmit request is left. -/
theorem idle_eq (s : State) : idle s = { s with
    kr := { s.kr with ks := if 0#16 < s.kr.cwvox ∨ s.kr.txReq = true then s.par.ksCode.exitloop else s.kr.ks } } :=
  idle_withKr s s.kr

/-- KS_CHECK latches no edge: its rule acts on the registers as they are. -/
theorem exec_ksCheck_of_run {s : State} (hrun : s.run = true) : exec .ksCheck s = .next
    ((ruleCheck s.paddle.dot s.paddle.dash s).withKr
      { (ruleCheck s.paddle.dot s.paddle.dash s).kr with
        dotPrev := s.paddle.dot, dashPrev := s.paddle.dash }) := by
  have htick := keyTick_run hrun (some .check) ruleCheck
  rwa [latchEdges_none rfl rfl, withKr_kr_self] at htick

/-- Settles O44: the case of CHECK that the key, the mode and the paddles select, and what that case does. -/
theorem checkFollowsThePaddles : Obligations.CheckFollowsThePaddles := by
  intro s hrun
  refine ⟨fun hkey hmode hdash => ?held, fun hkey hnot => ?release, fun hkey hmode hdash => ?straight,
    fun hkey _ hdash hdot => ?dotInModeZero, fun hkey hmode hdash hdot => ?tied,
    fun hkey hmode hdash hdot => ?dash, fun hkey _ hdash hdot => ?dot, fun hkey hdash hdot => ?idle⟩
  all_goals rw [exec_ksCheck_of_run hrun]
  case held => rw [ruleCheck_held hkey hmode hdash]; rfl
  case release => rw [ruleCheck_release hkey hnot]; rfl
  case straight => rw [ruleCheck_straight hkey hmode hdash, keyDown_up hkey]; rfl
  case dotInModeZero => rw [ruleCheck_dot hkey hdot hdash, enterDot_up _ hkey]; rfl
  case dot => rw [ruleCheck_dot hkey hdot hdash, enterDot_up _ hkey]; rfl
  case dash => rw [ruleCheck_dash hkey hmode hdot hdash, enterDash_up _ hkey]; rfl
  case tied =>
    rw [ruleCheck_tied hkey hmode hdot hdash, enterTied, enterDash_up _ hkey, enterDot_up _ hkey]
    split <;> rfl
  case idle => rw [ruleCheck_idle hkey hdot hdash, idle_eq]; rfl

end Sys2Proof.Machine
end

section
/-! The exception UnknownKeyerState is out of reach: `ks` names a state after reset, every operation keeps it so,
and only the row that an unrecognised `ks` selects reports one (R244, R265). -/

namespace Sys2Proof.Machine

/-! ### The relation between a state and a later one -/

/-- `ks` holds the code of one of the seven keyer states (R120, R265). -/
def KsRecognised (s : State) : Prop := keyerStateOf s.par.ksCode s.kr.ks ≠ none

/-- From `s` to `t` the keyer's state stays recognised, and the trace grew by events none of which is
UnknownKeyerState. -/
structure Quiet (s t : State) : Prop where
  recognised : KsRecognised s → KsRecognised t
  events : ∃ es : List Event, t.trace = s.trace ++ es ∧ ∀ x : BitVec 3, Event.unknownKeyerState x ∉ es

theorem ksRecognised_of_code {s : State} (st : KeyerState) (h : s.kr.ks = ksCodeOf s.par.ksCode st) :
    KsRecognised s := by
  intro hnone
  rw [keyerStateOf_eq_none_iff, h] at hnone
  cases st <;> simp [ksCodeList, ksCodeOf] at hnone

/-- The invariant says of `ks`, among other things, that it names a state. -/
theorem Inv.ksRecognised {s : State} (h : Inv s) : KsRecognised s := by
  intro hnone
  have hsound := h.keyer
  simp [keyerSound, hnone] at hsound

namespace Quiet

theorem refl (s : State) : Quiet s s := ⟨id, [], by simp, by simp⟩

theorem trans {s t u : State} (h : Quiet s t) (h' : Quiet t u) : Quiet s u := by
  obtain ⟨hks, es, htrace, hes⟩ := h
  obtain ⟨hks', es', htrace', hes'⟩ := h'
  refine ⟨hks' ∘ hks, es ++ es', by rw [htrace', htrace, List.append_assoc], fun x hmem => ?_⟩
  exact (List.mem_append.1 hmem).elim (hes x) (hes' x)

theorem ite {c : Prop} [Decidable c] {s t u : State} (h : Quiet s t) (h' : Quiet s u) :
    Quiet s (if c then t else u) := by
  split
  · exact h
  · exact h'

/-- What leaves the parameters and `ks` alone has only its events to answer for. -/
theorem of_events {s t : State} (hpar : t.par = s.par) (hks : t.kr.ks = s.kr.ks) (es : List Event)
    (htrace : t.trace = s.trace ++ es) (hes : ∀ x : BitVec 3, Event.unknownKeyerState x ∉ es) : Quiet s t :=
  ⟨fun h => by rwa [KsRecognised, hpar, hks], es, htrace, hes⟩

/-- What leaves the parameters, `ks` and the trace alone is quiet. -/
theorem of_same {s t : State} (hpar : t.par = s.par) (hks : t.kr.ks = s.kr.ks) (htrace : t.trace = s.trace) :
    Quiet s t := of_events hpar hks [] (by rw [htrace, List.append_nil]) (by simp)

/-! One more change at the end of a quiet stretch from `s` to `t`. -/

section
variable {s t : State}

/-- A change that leaves the parameters, `ks` and the trace alone. -/
theorem then_same {u : State} (h : Quiet s t) (hpar : u.par = t.par := by rfl)
    (hks : u.kr.ks = t.kr.ks := by rfl) (htrace : u.trace = t.trace := by rfl) : Quiet s u :=
  h.trans (of_same hpar hks htrace)

/-- An event other than UnknownKeyerState. -/
theorem then_emit {e : Event} (h : Quiet s t) (he : ∀ x, e ≠ .unknownKeyerState x := by simp) :
    Quiet s (t.emit e) :=
  h.trans (of_events rfl rfl [e] rfl fun x hmem => he x (List.mem_singleton.1 hmem).symm)

/-- A write of keyer registers other than `ks`. -/
theorem then_withKr {k : KeyRegs} (h : Quiet s t) (hks : k.ks = t.kr.ks := by rfl) : Quiet s (t.withKr k) :=
  h.trans (of_same rfl hks rfl)

/-- A write of `ks` by name. -/
theorem then_toKeyerState {st : KeyerState} (h : Quiet s t) : Quiet s (toKeyerState st t) :=
  h.trans ⟨fun _ => ksRecognised_of_code st rfl, [], by simp [toKeyerState_eq], by simp⟩

end

theorem refuse (why : RefuseReason) (s : State) : Quiet s (refuse why s) := then_emit (refl s)

/-- An operation that is refused while the block is stopped is quiet when its rule is. -/
theorem whenRunning {s t : State} {k : State → State} (hk : Quiet s (k s))
    (h : whenRunning s k = .next t) : Quiet s t := by
  rw [whenRunning_eq] at h
  cases h
  exact hk.ite (refuse _ s)

/-! ### KEY: the shared procedures -/

theorem keyUp (s : State) : Quiet s (keyUp s) := then_emit (then_withKr (refl s))

theorem keyDown (s : State) : Quiet s (keyDown s) := by
  have hmox : Quiet s (if s.kr.txReq then s else (s.withKr { s.kr with txReq := true }).emit .moxOn) :=
    ite (refl s) (then_emit (then_withKr (refl s)))
  exact ite (refl s) (then_emit (then_withKr hmox))

theorem enterDot (h : Bool) (s : State) : Quiet s (enterDot h s) :=
  then_toKeyerState (then_withKr ((then_withKr (refl s)).trans (keyDown _)))

theorem enterDash (d : Bool) (s : State) : Quiet s (enterDash d s) :=
  then_toKeyerState (then_withKr ((then_withKr (refl s)).trans (keyDown _)))

theorem enterTied (d h : Bool) (s : State) : Quiet s (enterTied d h s) := ite (enterDash d s) (enterDot h s)

theorem idle (s : State) : Quiet s (idle s) := ite (then_toKeyerState (refl s)) (refl s)

theorem countTick (s : State) : Quiet s (countTick s) := then_withKr (refl s)

theorem endElement (st : KeyerState) (s : State) : Quiet s (endElement st s) :=
  then_toKeyerState (then_withKr (keyUp s))

theorem endSequence (s : State) : Quiet s (endSequence s) :=
  ite (then_toKeyerState (then_withKr (refl s))) (then_toKeyerState (refl s))

/-! ### KEY: the rules of the seven states -/

theorem ruleCheck (d h : Bool) (s : State) : Quiet s (ruleCheck d h s) := by
  have hstraight : Quiet s (if h then Machine.keyDown s else if d then Machine.enterDot h s else Machine.idle s) :=
    ite (keyDown s) (ite (enterDot h s) (idle s))
  have hpaddles : Quiet s (if h && d then Machine.enterTied d h s else if h then Machine.enterDash d s
      else if d then Machine.enterDot h s else Machine.idle s) :=
    ite (enterTied d h s) (ite (enterDash d s) (ite (enterDot h s) (idle s)))
  exact ite (ite (refl s) (keyUp s)) (ite hstraight hpaddles)

theorem ruleSenddot (s : State) : Quiet s (ruleSenddot s) := ite (endElement _ s) (countTick s)

theorem ruleSenddash (s : State) : Quiet s (ruleSenddash s) := ite (endElement _ s) (countTick s)

theorem decideAfterDot (d h : Bool) (s : State) : Quiet s (decideAfterDot d h s) := by
  have hrelease : Quiet s (if modeARelease s d h then s.withKr { s.kr with dashHeld := false } else s) :=
    ite (then_withKr (refl s)) (refl s)
  exact hrelease.trans (ite (enterDash d _) (ite (enterDot h _) (endSequence _)))

theorem decideAfterDash (d h : Bool) (s : State) : Quiet s (decideAfterDash d h s) := by
  have hrelease : Quiet s (if modeARelease s d h then s.withKr { s.kr with dotHeld := false } else s) :=
    ite (then_withKr (refl s)) (refl s)
  exact hrelease.trans (ite (enterDot h _) (ite (enterDash d _) (endSequence _)))

theorem decideAfterLetter (d h : Bool) (s : State) : Quiet s (decideAfterLetter d h s) :=
  ite (enterTied d h s) (ite (enterDash d s) (ite (enterDot h s) (then_toKeyerState (refl s))))

theorem ruleDotdelay (d h : Bool) (s : State) : Quiet s (ruleDotdelay d h s) :=
  ite (decideAfterDot d h s) (countTick s)

theorem ruleDashdelay (d h : Bool) (s : State) : Quiet s (ruleDashdelay d h s) :=
  ite (decideAfterDash d h s) (countTick s)

theorem ruleLetterspace (d h : Bool) (s : State) : Quiet s (ruleLetterspace d h s) :=
  ite (decideAfterLetter d h s) (countTick s)

theorem ruleExitloop (s : State) : Quiet s (ruleExitloop s) := by
  have hmox : Quiet s (if s.kr.txReq then (s.withKr { s.kr with txReq := false }).emit .moxOff else s) :=
    ite (then_emit (then_withKr (refl s))) (refl s)
  exact ite (then_withKr (refl s)) (then_toKeyerState hmox)

/-- A KEY_TICK around a quiet rule. -/
theorem keyTick {s t : State} {st : Option KeyerState} {rule : Bool → Bool → State → State}
    (hrule : ∀ d h u, Quiet u (rule d h u)) (h : keyTick st rule s = .next t) : Quiet s t :=
  whenRunning (then_withKr ((then_withKr (refl s)).trans (hrule _ _ _))) h

/-! ### The other units -/

/-- An accepted frame reports its status, samples and hand-offs. -/
theorem acceptFrame (f : Vector Byte 512) (s : State) : Quiet s (acceptFrame f s) := by
  obtain ⟨-, -, -, d, es, hframe⟩ := DecFrame.acceptFrame f s
  obtain ⟨es', htrace, hes⟩ := walkPeriods_events f s.cfg.nrx.toNat s.cfg.micGain
    (periodCount s.cfg.nrx.toNat) (takeStatus f s)
  have hstatus : Quiet s (takeStatus f s) :=
    of_events rfl rfl [.status (statusBytes f)] rfl (by simp)
  refine hstatus.trans (of_events (by rw [hframe]) (by rw [hframe]) es' htrace fun x hmem => ?_)
  obtain ⟨q, hq⟩ | ⟨r, i, q, hr⟩ := hes _ hmem
  · cases hq
  · cases hr

theorem raise_syncLost (now : Nat) (s : State) : Quiet s (raise (.syncLost now) s) :=
  ite (then_same (then_emit (e := .syncLost now) (refl s))) (refl s)

theorem checkGap (q : BitVec 32) (s : State) : Quiet s (checkGap q s) := by
  have hgap : Quiet s (if s.sq.lastSeenValid && q != expectedSeq s then
      raise (.sequenceGap (expectedSeq s) q) s else s) := ite (then_emit (refl s)) (refl s)
  exact then_same hgap

theorem resetUnits (s : State) : Quiet s (resetUnits s) :=
  ⟨fun _ => ksRecognised_of_code .check rfl, [], by simp, by simp⟩

theorem start {s t : State} (h : execStart s = .next t) : Quiet s t := by
  cases h
  exact ite (refl s) (then_same (resetUnits s))

theorem cfgWrite {reg : CfgReg} {v : Rat} {s t : State} (h : execCfgWrite reg v s = .next t) : Quiet s t := by
  cases h
  cases hw : writeConfig reg v s with
  | none => exact refuse _ s
  | some u =>
    obtain ⟨pd, x, k, tp, rx, rfl⟩ := writeConfig_frame hw
    exact of_same rfl rfl rfl

/-- What a state of CC_STEP decides is a refusal or a quiet change. -/
def Body (s : State) : CcOutcome → Prop
  | .refused _ => True
  | .done _ _ t => Quiet s t

/-- A CC_STEP around such a body. -/
theorem ccStep {s t : State} {body : CcOutcome} (hbody : Body s body) (h : ccStep s body = .next t) :
    Quiet s t := by
  obtain ⟨why, rfl⟩ | ⟨-, b, next, u, rfl, rfl⟩ := ccStep_cases h
  · exact refuse why s
  · exact then_same hbody

theorem ccBody0 (s : State) : Body s (ccBody0 s) := by
  rw [Machine.ccBody0]
  split
  · trivial
  · exact refl s

theorem ccBody2 (s : State) : Body s (ccBody2 s) := by
  cases hsel : rxSelected s with
  | none =>
    rw [ccBody2_of_none hsel]
    exact of_same rfl rfl rfl
  | some r =>
    cases hx : rxfreqC0At s.par r with
    | none =>
      rw [ccBody2_of_no_command hsel hx]
      trivial
    | some x =>
      rw [ccBody2_of_some hsel hx]
      exact of_same rfl rfl rfl

theorem ccBody3 (s : State) : Body s (ccBody3 s) := by
  rw [ccBody3_eq]
  exact of_same rfl rfl rfl

/-! ### Every instruction but one -/

/-- KS_UNKNOWN apart, no instruction reports an unrecognised state or leads to one. -/
theorem exec {i : Instr} {s t : State} (hi : i ≠ .ksUnknown) (h : exec i s = .next t) : Quiet s t := by
  cases i with
  | decodeOk f now => exact whenRunning (acceptFrame f s) h
  | decodeSynclost f now => exact whenRunning (raise_syncLost now s) h
  | encode x p => cases h; exact of_same rfl rfl rfl
  | txWriteHdr o => exact whenRunning (of_same rfl rfl rfl) h
  | txWriteNohdr o => exact whenRunning (of_same rfl rfl rfl) h
  | gapCheck q => exact whenRunning (checkGap q s) h
  | start => exact start h
  | stop => cases h; exact resetUnits s
  | cfgWrite reg v => exact cfgWrite h
  | hwcmdStop => cases h; exact of_same rfl rfl rfl
  | hwcmdStart => cases h; exact of_same rfl rfl rfl
  | hwcmdStartWb => cases h; exact of_same rfl rfl rfl
  | cc0 => exact ccStep (ccBody0 s) h
  | cc1 => exact ccStep (body := ccBody1 s) (of_same rfl rfl rfl) h
  | cc2 => exact ccStep (ccBody2 s) h
  | cc3 => exact ccStep (ccBody3 s) h
  | cc4 => exact ccStep (body := ccBody4 s) (refl s) h
  | cc5 => exact ccStep (body := ccBody5 s) (refl s) h
  | cc6 => exact ccStep (body := ccBody6 s) (refl s) h
  | cc7 => exact ccStep (body := ccBody7 s) (refl s) h
  | ksCheck => exact keyTick ruleCheck h
  | ksSenddot => exact keyTick (fun _ _ => ruleSenddot) h
  | ksSenddash => exact keyTick (fun _ _ => ruleSenddash) h
  | ksDotdelay => exact keyTick ruleDotdelay h
  | ksDashdelay => exact keyTick ruleDashdelay h
  | ksLetterspace => exact keyTick ruleLetterspace h
  | ksExitloop => exact keyTick (fun _ _ => ruleExitloop) h
  | ksUnknown => exact absurd rfl hi

end Quiet

/-! ### The row of an unrecognised state is not selected -/

/-- A recognised state selects its own row. -/
theorem ksRow_ne_ksUnknown {st : Option KeyerState} (h : st ≠ none) : ksRow st ≠ .ksUnknown := by
  cases st with
  | none => exact absurd rfl h
  | some st => cases st <;> exact nofun

theorem ccRow_ne_ksUnknown (rr : BitVec 3) : ccRow rr ≠ .ksUnknown := by
  intro h
  have hencode := encode_ccRow rr
  rw [h] at hencode
  cases hencode

/-- KS_UNKNOWN is decoded from a KEY_TICK alone, and then `ks` is unrecognised (R135, R244). -/
theorem ks_unrecognised_of_decode {x : Context} {r : Request} (h : decode x r = .ok .ksUnknown) :
    keyerStateOf x.par.ksCode x.ks = none := by
  cases r with
  | keyTick =>
    by_contra hks
    exact ksRow_ne_ksUnknown hks (Except.ok.inj h)
  | ccStep => exact absurd (Except.ok.inj h) (ccRow_ne_ksUnknown x.rr)
  | decode _ _ | encode _ _ | txWrite _ =>
    simp only [decode, decodeRow] at h
    split at h
    · split at h <;> cases h
    · cases h
  | gapCheck q =>
    simp only [decode] at h
    split at h <;> cases h
  | hwcmd k => cases k <;> cases h
  | cfgWrite reg v => cases h
  | start => cases h
  | stop => cases h

/-- A step from a recognised keyer state is quiet: the row it performs is not KS_UNKNOWN. -/
theorem Quiet.step {s t : State} (hks : KsRecognised s) (h : step s = .next t) : Quiet s t := by
  obtain ⟨-, rfl⟩ | ⟨r, rest, i, -, hdecode, hexec⟩ := step_cases h
  · exact refl t
  · have hi : i ≠ .ksUnknown := by
      rintro rfl
      exact hks (ks_unrecognised_of_decode hdecode)
    exact (of_same rfl rfl rfl : Quiet s (s.withScript rest)).trans (exec hi hexec)

/-- A run of any length from a recognised keyer state, by induction on its steps. -/
theorem Quiet.run {n : Nat} {s t : State} (hks : KsRecognised s) (h : core.run n s = .next t) : Quiet s t := by
  induction n generalizing s with
  | zero =>
    cases h
    exact refl _
  | succ n ih =>
    cases hstep : Machine.step s with
    | next u =>
      rw [run_succ_of_step hstep] at h
      have hfirst := step hks hstep
      exact hfirst.trans (ih (hfirst.recognised hks) h)
    | fault r => exact nomatch r
    | refused r =>
      rw [run_succ_refused hstep] at h
      cases h

/-- Settles O9: `Quiet.run` from reset, whose trace is empty and whose keyer is in CHECK, and `Quiet.step` from
the invariant. -/
theorem unknownKeyerStateNeverRaised : Obligations.UnknownKeyerStateNeverRaised := by
  refine ⟨fun l n t hrun x => ?_, fun s t hinv hstep => (Quiet.step hinv.ksRecognised hstep).events⟩
  have hreset : KsRecognised (State.reset.withScript l) := ksRecognised_of_code .check rfl
  obtain ⟨es, htrace, hes⟩ := (Quiet.run hreset hrun).events
  rw [htrace]
  exact hes x

end Sys2Proof.Machine
end

section
/-! The decoder and the encoder are inverse to each other, and a step is the row its presentation decodes to
(R11, R130, R135). -/

namespace Sys2Proof.Machine

/-! ### The rows a selector names -/

/-- The CC_STEP row whose selector holds is the one `rr` names. -/
theorem ccRow_of_selects {x : Context} {i : Instr} (henc : encode i = .ccStep) (hsel : selects x i = true) :
    ccRow x.rr = i := by
  cases i <;> simp [encode] at henc <;> simp [selects] at hsel <;> simp [hsel, ccRow]

/-- The KEY_TICK row whose selector holds is the one `ks` names, as no two states share a code. -/
theorem ksRow_of_selects {x : Context} {i : Instr} (hcodes : (ksCodeList x.par.ksCode).Nodup)
    (henc : encode i = .keyTick) (hsel : selects x i = true) : ksRow (keyerStateOf x.par.ksCode x.ks) = i := by
  have named (st : KeyerState) (h : x.ks = ksCodeOf x.par.ksCode st) :
      keyerStateOf x.par.ksCode x.ks = some st := by rw [h, keyerStateOf_ksCodeOf _ hcodes]
  cases i <;> simp only [encode, reduceCtorEq] at henc <;>
    simp only [selects, beq_iff_eq, Bool.not_eq_true'] at hsel
  case ksCheck => rw [named .check hsel, ksRow]
  case ksSenddot => rw [named .senddot hsel, ksRow]
  case ksSenddash => rw [named .senddash hsel, ksRow]
  case ksDotdelay => rw [named .dotdelay hsel, ksRow]
  case ksDashdelay => rw [named .dashdelay hsel, ksRow]
  case ksLetterspace => rw [named .letterspace hsel, ksRow]
  case ksExitloop => rw [named .exitloop hsel, ksRow]
  case ksUnknown => rw [(keyerStateOf_eq_none_iff _ _).2 hsel, ksRow]

/-- Parameters of a block give each keyer state a code of its own (R120). -/
theorem ksCodeList_nodup_of_paramsWf {p : Params} (h : paramsWf p = true) : (ksCodeList p.ksCode).Nodup := by
  simp only [paramsWf, Bool.and_eq_true, decide_eq_true_eq] at h
  exact h.2

/-! ### Operands written out -/

@[simp] theorem frameArg_bytes (last : Option (Vector Byte 512)) (f : Vector Byte 512) :
    frameArg last (.bytes f.toList) = .ok f := by
  simp [frameArg, ofLength_toList]

@[simp] theorem ctrlArg_bytes (cc b : Vector Byte 5) : ctrlArg cc (.bytes b.toList) = .ok b := by
  simp [ctrlArg, ofLength_toList]

/-- A frame operand other than `LAST` is the bytes of the frame it stands for. -/
theorem bytes_of_frameArg {last : Option (Vector Byte 512)} {a : FrameArg} {f : Vector Byte 512}
    (h : frameArg last a = .ok f) (ha : a ≠ .last) : FrameArg.bytes f.toList = a := by
  cases a with
  | last => exact absurd rfl ha
  | bytes l =>
    simp only [frameArg] at h
    split at h
    · next hl =>
      cases h
      rw [toList_of_ofLength hl]
    · cases h

/-- A control-byte operand other than `CC` is the bytes it stands for. -/
theorem bytes_of_ctrlArg {cc b : Vector Byte 5} {a : CtrlArg} (h : ctrlArg cc a = .ok b) (ha : a ≠ .cc) :
    CtrlArg.bytes b.toList = a := by
  cases a with
  | cc => exact absurd rfl ha
  | bytes l =>
    simp only [ctrlArg] at h
    split at h
    · next hl =>
      cases h
      rw [toList_of_ofLength hl]
    · cases h

/-! ### Decoding what the encoder writes -/

/-- Settles O1: frames and payloads are read back whole, and each row of CC_STEP and KEY_TICK is the one its
selector names. -/
theorem decodeInvertsEncode : Obligations.DecodeInvertsEncode := by
  intro x i hpar hwf hsel
  have hcodes := ksCodeList_nodup_of_paramsWf hpar
  cases i with
  | decodeOk f now => exact decode_frame_of_syncMatches hwf now
  | decodeSynclost f now =>
    have hsync : syncMatches x.par f = false := by simpa [wellFormed] using hwf
    simp [encode, decode, decodeRow, hsync]
  | encode b p => simp [encode, decode, ofLength_toList]
  | txWriteHdr o =>
    have hphase : x.hdrPhase = false := by simpa [selects] using hsel
    simp [encode, decode, hphase]
  | txWriteNohdr o =>
    have hphase : x.hdrPhase = true := hsel
    simp [encode, decode, hphase]
  | gapCheck q => simp [encode, decode, q.isLt]
  | start | stop | cfgWrite _ _ | hwcmdStop | hwcmdStart | hwcmdStartWb => rfl
  | cc0 | cc1 | cc2 | cc3 | cc4 | cc5 | cc6 | cc7 => exact congrArg Except.ok (ccRow_of_selects rfl hsel)
  | ksCheck | ksSenddot | ksSenddash | ksDotdelay | ksDashdelay | ksLetterspace | ksExitloop | ksUnknown =>
    exact congrArg Except.ok (ksRow_of_selects hcodes rfl hsel)

/-! ### Encoding what the decoder answers -/

/-- The row of DECODE is the one the frame's SYNC selects, and is presented as that frame. -/
theorem decodeRow_cases (p : Params) (f : Vector Byte 512) (now : Nat) :
    wellFormed p (decodeRow p f now) = true ∧ encode (decodeRow p f now) = .decode (.bytes f.toList) now ∧
      ∀ x : Context, selects x (decodeRow p f now) = true := by
  unfold decodeRow
  split
  · next hsync => exact ⟨hsync, rfl, fun _ => rfl⟩
  · next hsync => exact ⟨by simpa [wellFormed] using hsync, rfl, fun _ => rfl⟩

/-- Outside the two rows of DECODE every instruction is well formed (R135). -/
theorem wellFormed_of_not_decode (p : Params) {i : Instr} (h : ∀ f now, encode i ≠ .decode f now) :
    wellFormed p i = true := by
  cases i with
  | decodeOk f now => exact absurd rfl (h _ _)
  | decodeSynclost f now => exact absurd rfl (h _ _)
  | _ => rfl

/-- Settles O2, presentation by presentation. -/
theorem decodedInstrIsSelectedAndWellFormed : Obligations.DecodedInstrIsSelectedAndWellFormed := by
  intro x r i h
  cases r with
  | decode a now =>
    simp only [decode] at h
    split at h
    · next f hf =>
      cases h
      obtain ⟨hwf, henc, hsel⟩ := decodeRow_cases x.par f now
      refine ⟨hwf, hsel x, fun hexp => ?_⟩
      rw [henc, bytes_of_frameArg hf (of_decide_eq_true hexp)]
    · cases h
  | encode a l =>
    simp only [decode] at h
    split at h
    · next b hb =>
      split at h
      · next p hp =>
        cases h
        refine ⟨rfl, rfl, fun hexp => ?_⟩
        rw [encode, bytes_of_ctrlArg hb (of_decide_eq_true hexp), toList_of_ofLength hp]
      · cases h
    · cases h
  | txWrite a =>
    simp only [decode] at h
    split at h
    · next o ho =>
      cases h
      have hencode (hexp : (Request.txWrite a).explicit = true) : FrameArg.bytes o.toList = a :=
        bytes_of_frameArg ho (of_decide_eq_true hexp)
      split
      · next hphase => exact ⟨rfl, hphase, fun hexp => congrArg Request.txWrite (hencode hexp)⟩
      · next hphase =>
        exact ⟨rfl, by simpa [selects] using hphase, fun hexp => congrArg Request.txWrite (hencode hexp)⟩
    · cases h
  | gapCheck q =>
    simp only [decode] at h
    split at h
    · next hq =>
      cases h
      exact ⟨rfl, rfl, fun _ => congrArg Request.gapCheck (Nat.mod_eq_of_lt hq)⟩
    · cases h
  | hwcmd k =>
    cases h
    cases k <;> exact ⟨rfl, rfl, fun _ => rfl⟩
  | ccStep =>
    cases h
    exact ⟨wellFormed_of_not_decode _ (by simp [encode_ccRow]), selects_ccRow x, fun _ => encode_ccRow _⟩
  | keyTick =>
    cases h
    exact ⟨wellFormed_of_not_decode _ (by simp [encode_ksRow]), selects_ksRow x, fun _ => encode_ksRow _⟩
  | cfgWrite reg v => cases h; exact ⟨rfl, rfl, fun _ => rfl⟩
  | start => cases h; exact ⟨rfl, rfl, fun _ => rfl⟩
  | stop => cases h; exact ⟨rfl, rfl, fun _ => rfl⟩

/-! ### Rows of the opcode table, and one step -/

/-- Settles O3: SYNC bytes select the row of DECODE, and the other words are values of the registers. -/
theorem tableWordsReadAsTheirRows : Obligations.TableWordsReadAsTheirRows := by
  refine ⟨fun x f now hsync h0 h1 h2 => ?_, fun x f now hsync h1 => ?_, rfl, fun x hrr => ?_,
    fun x hcodes hks => ?_, fun x hcodes hks => ?_, fun x o => ?_, fun x => rfl⟩
  · exact decode_frame_of_syncMatches (by simp [syncMatches, hsync, h0, h1, h2]) now
  · have hlost : syncMatches x.par f = false := by simp [syncMatches, hsync, h1]
    simp [decode, decodeRow, hlost]
  · rw [decode, hrr]
    rfl
  · rw [decode, hcodes, hks]
    rfl
  · rw [decode, hcodes, hks]
    rfl
  · simp [decode]

/-- Settles O4: the three cases of `fetch` and `decode`. -/
theorem stepPerformsTheNextOperation : Obligations.StepPerformsTheNextOperation := by
  refine ⟨fun s h => ?_, fun s r rest i h hd => step_cons h hd, fun s r rest why h hd => ?_⟩
  · rw [step, fetch_nil h]
  · simp only [step, fetch_cons h, hd]

/-- The rule of the state that a KEY_TICK is run in, `none` for the unrecognised one (R220). -/
def tickRule : Option KeyerState → Bool → Bool → State → State
  | some .check, d, h, s => ruleCheck d h s
  | some .senddot, _, _, s => ruleSenddot s
  | some .senddash, _, _, s => ruleSenddash s
  | some .dotdelay, d, h, s => ruleDotdelay d h s
  | some .dashdelay, d, h, s => ruleDashdelay d h s
  | some .letterspace, d, h, s => ruleLetterspace d h s
  | some .exitloop, _, _, s => ruleExitloop s
  | none, _, _, s => ruleUnknown s

/-- Each row of KEY_TICK is `keyTick` around the rule of its state. -/
theorem exec_ksRow (st : Option KeyerState) (s : State) : exec (ksRow st) s = keyTick st (tickRule st) s := by
  cases st with
  | none => rfl
  | some st => cases st <;> rfl

/-- What is presented as KEY_TICK is one of its rows. -/
theorem exists_ksRow {i : Instr} (h : encode i = .keyTick) : ∃ st, ksRow st = i := by
  cases i <;> simp only [encode, reduceCtorEq] at h
  case ksCheck => exact ⟨some .check, rfl⟩
  case ksSenddot => exact ⟨some .senddot, rfl⟩
  case ksSenddash => exact ⟨some .senddash, rfl⟩
  case ksDotdelay => exact ⟨some .dotdelay, rfl⟩
  case ksDashdelay => exact ⟨some .dashdelay, rfl⟩
  case ksLetterspace => exact ⟨some .letterspace, rfl⟩
  case ksExitloop => exact ⟨some .exitloop, rfl⟩
  case ksUnknown => exact ⟨none, rfl⟩

/-- What is presented as CC_STEP is `ccStep` around the body of some state. -/
theorem exec_of_encode_ccStep {i : Instr} (h : encode i = .ccStep) (s : State) :
    ∃ body, exec i s = ccStep s body :=
  exec_cc_eq_ccStep (by cases i <;> simp [encode] at h ⊢) s

/-- What is presented as KEY_TICK is `keyTick` around the rule of some state. -/
theorem exec_of_encode_keyTick {i : Instr} (h : encode i = .keyTick) (s : State) :
    ∃ st, exec i s = keyTick st (tickRule st) s := by
  obtain ⟨st, rfl⟩ := exists_ksRow h
  exact ⟨st, exec_ksRow st s⟩

/-- The operations that a stopped block refuses: DECODE, TX_WRITE, GAP_CHECK, CC_STEP and KEY_TICK (R35). -/
def NeedsRun (i : Instr) : Prop := ∀ s, ∃ k, exec i s = whenRunning s k

theorem needsRun_of_encode_ccStep {i : Instr} (h : encode i = .ccStep) : NeedsRun i := fun s =>
  (exec_of_encode_ccStep h s).elim fun _ hexec => ⟨_, hexec⟩

theorem needsRun_of_encode_keyTick {i : Instr} (h : encode i = .keyTick) : NeedsRun i := fun s =>
  (exec_of_encode_keyTick h s).elim fun _ hexec => ⟨_, hexec⟩

/-- An operation that needs the block to run has a next state whether or not it runs. -/
theorem NeedsRun.next {i : Instr} (h : NeedsRun i) (s : State) : ∃ t, exec i s = .next t := by
  obtain ⟨k, hk⟩ := h s
  exact ⟨_, hk.trans (whenRunning_eq s k)⟩

/-- A stopped block refuses it. -/
theorem NeedsRun.stopped {i : Instr} (h : NeedsRun i) {s : State} (hstop : s.run = false) :
    exec i s = .next { s with trace := s.trace ++ [.refused .notRunning] } := by
  obtain ⟨k, hk⟩ := h s
  exact hk.trans (whenRunning_stopped hstop k)

/-- Settles O5: an operation is one next state, or one of two as the block runs or not. -/
theorem noOperationHaltsTheBlock : Obligations.NoOperationHaltsTheBlock := by
  intro i s
  cases i with
  | encode _ _ | start | stop | cfgWrite _ _ | hwcmdStop | hwcmdStart | hwcmdStartWb => exact ⟨_, rfl⟩
  | decodeOk _ _ | decodeSynclost _ _ | txWriteHdr _ | txWriteNohdr _ | gapCheck _ =>
    exact NeedsRun.next (fun _ => ⟨_, rfl⟩) s
  | cc0 | cc1 | cc2 | cc3 | cc4 | cc5 | cc6 | cc7 => exact (needsRun_of_encode_ccStep rfl).next s
  | ksCheck | ksSenddot | ksSenddash | ksDotdelay | ksDashdelay | ksLetterspace | ksExitloop | ksUnknown =>
    exact (needsRun_of_encode_keyTick rfl).next s

/-- Settles O6: each of the 21 rows makes the test of `run` first. -/
theorem stoppedBlockRefuses : Obligations.StoppedBlockRefuses := by
  intro s f now q hstop i hi
  refine NeedsRun.stopped ?_ hstop
  cases i with
  | decodeOk _ _ | decodeSynclost _ _ | txWriteHdr _ | txWriteNohdr _ | gapCheck _ => exact fun _ => ⟨_, rfl⟩
  | cc0 | cc1 | cc2 | cc3 | cc4 | cc5 | cc6 | cc7 => exact needsRun_of_encode_ccStep rfl
  | ksCheck | ksSenddot | ksSenddash | ksDotdelay | ksDashdelay | ksLetterspace | ksExitloop | ksUnknown =>
    exact needsRun_of_encode_keyTick rfl
  | encode _ _ | start | stop | cfgWrite _ _ | hwcmdStop | hwcmdStart | hwcmdStartWb => simp at hi

end Sys2Proof.Machine
end

section
/-! KEY, the keyer: what KEY_TICK does in the six states after CHECK and in the unrecognised one, the groups of
events it emits, and how long an element lasts (R228 to R245). -/

namespace Sys2Proof.Machine

/-! ### A running tick, on the registers with their edges latched -/

/-- The registers with the tick's samples of the paddles kept. -/
def keepSamples (d h : Bool) (s : State) : State := s.withKr { s.kr with dotPrev := d, dashPrev := h }

/-- A running KEY_TICK: the rule on the latched registers, then the samples kept. -/
theorem exec_ksRow_of_run {s : State} (hrun : s.run = true) (st : Option KeyerState) : exec (ksRow st) s = .next
    (keepSamples s.paddle.dot s.paddle.dash (tickRule st s.paddle.dot s.paddle.dash
      (s.withKr (latchEdges st s.paddle.dot s.paddle.dash s.kr)))) := by
  rw [exec_ksRow, keyTick_run hrun]
  rfl

/-- Only the dash memory is latched in the states of its window alone. -/
theorem latchEdges_dash {st : Option KeyerState} (h1 : dashWindow st = true) (h2 : dotWindow st = false)
    (d h : Bool) (k : KeyRegs) :
    latchEdges st d h k = { k with dashMem := k.dashMem || (h && !k.dashPrev) } := by
  simp [latchEdges, h1, h2]

/-- Only the dot memory is latched in the states of its window alone. -/
theorem latchEdges_dot {st : Option KeyerState} (h1 : dashWindow st = false) (h2 : dotWindow st = true)
    (d h : Bool) (k : KeyRegs) :
    latchEdges st d h k = { k with dotMem := k.dotMem || (d && !k.dotPrev) } := by
  simp [latchEdges, h1, h2]

/-- Both memories are latched where both windows accept an edge. -/
theorem latchEdges_both {st : Option KeyerState} (h1 : dashWindow st = true) (h2 : dotWindow st = true)
    (d h : Bool) (k : KeyRegs) : latchEdges st d h k =
      { k with dashMem := k.dashMem || (h && !k.dashPrev), dotMem := k.dotMem || (d && !k.dotPrev) } := by
  simp [latchEdges, h1, h2]

@[simp] theorem latchEdges_cnt (st : Option KeyerState) (d h : Bool) (k : KeyRegs) :
    (latchEdges st d h k).cnt = k.cnt := rfl

/-! Each interval, from `s.withKr k`: it ends with this tick, or counts it. -/

theorem ruleSenddot_withKr (s : State) (k : KeyRegs) : ruleSenddot (s.withKr k) =
    if dotLen s.kcfg ≤ k.cnt.toNat + 1 then endElement .dotdelay (s.withKr k) else countTick (s.withKr k) := by
  simp [ruleSenddot]

theorem ruleSenddash_withKr (s : State) (k : KeyRegs) : ruleSenddash (s.withKr k) =
    if dashLen s.kcfg ≤ k.cnt.toNat + 1 then endElement .dashdelay (s.withKr k) else countTick (s.withKr k) := by
  simp [ruleSenddash]

theorem ruleDotdelay_withKr (d h : Bool) (s : State) (k : KeyRegs) : ruleDotdelay d h (s.withKr k) =
    if dotLen s.kcfg ≤ k.cnt.toNat + 1 then decideAfterDot d h (s.withKr k) else countTick (s.withKr k) := by
  simp [ruleDotdelay]

theorem ruleDashdelay_withKr (d h : Bool) (s : State) (k : KeyRegs) : ruleDashdelay d h (s.withKr k) =
    if dotLen s.kcfg ≤ k.cnt.toNat + 1 then decideAfterDash d h (s.withKr k) else countTick (s.withKr k) := by
  simp [ruleDashdelay]

theorem ruleLetterspace_withKr (d h : Bool) (s : State) (k : KeyRegs) : ruleLetterspace d h (s.withKr k) =
    if 2 * dotLen s.kcfg ≤ k.cnt.toNat + 1 then decideAfterLetter d h (s.withKr k) else countTick (s.withKr k) := by
  simp [ruleLetterspace]

/-! ### The elements -/

/-- Settles O45: each element counts or ends, on the registers with the opposite memory latched. -/
theorem elementsEndWithKeyUp : Obligations.ElementsEndWithKeyUp := by
  intro s hrun
  refine ⟨(exec_ksRow_of_run hrun (some .senddot)).trans (congrArg _ ?_),
    (exec_ksRow_of_run hrun (some .senddash)).trans (congrArg _ ?_)⟩
  · rw [← dotLen, latchEdges_dash rfl rfl, tickRule, ruleSenddot_withKr]
    by_cases hend : dotLen s.kcfg ≤ s.kr.cnt.toNat + 1
    · rw [if_pos hend, if_pos hend, endElement_withKr]; rfl
    · rw [if_neg hend, if_neg hend]; rfl
  · rw [← dotLen, ← dashLen, latchEdges_dot rfl rfl, tickRule, ruleSenddash_withKr]
    by_cases hend : dashLen s.kcfg ≤ s.kr.cnt.toNat + 1
    · rw [if_pos hend, if_pos hend, endElement_withKr]; rfl
    · rw [if_neg hend, if_neg hend]; rfl

/-! ### The spaces after them -/

/-- An element asked for by neither its memory nor its paddle nor its held flag. -/
theorem not_asked {mem paddle held : Bool} (hmem : mem = false) (hpaddle : paddle = false) (hheld : held = false) :
    ¬ (mem = true ∨ paddle = true ∨ held = true) := by simp [hmem, hpaddle, hheld]

/-- Settles O46: the space counts, or ends in one of the three decisions of `decideAfterDot`. -/
theorem dotDelayDecides : Obligations.DotDelayDecides := by
  intro s hrun hkey
  have htick := exec_ksRow_of_run hrun (some .dotdelay)
  rw [latchEdges_dash rfl rfl, tickRule, ruleDotdelay_withKr, dotLen] at htick
  refine ⟨fun hcnt => htick.trans (congrArg _ ?count), fun hcnt => ?_⟩
  case count => rw [if_neg (Nat.not_le_of_lt hcnt)]; rfl
  rw [if_pos hcnt, decideAfterDot_withKr] at htick
  refine ⟨fun hdash => htick.trans (congrArg _ ?dash), fun hmem hdash hheld hdot => htick.trans (congrArg _ ?dot),
    fun hmem hdash hheld hdot => htick.trans (congrArg _ ?none)⟩
  case dash => rw [if_pos hdash, enterDash_withKr s _ (by exact hkey)]; rfl
  case dot =>
    rw [if_neg (not_asked hmem hdash hheld), if_pos hdot, enterDot_withKr s _ (by exact hkey)]
    rfl
  case none =>
    rw [if_neg (not_asked hmem hdash hheld), if_neg (by simp [hdot]), endSequence_withKr, hheld]
    split <;> rfl

/-- Settles O47: the mirror image, by `decideAfterDash`. -/
theorem dashDelayDecides : Obligations.DashDelayDecides := by
  intro s hrun hkey
  have htick := exec_ksRow_of_run hrun (some .dashdelay)
  rw [latchEdges_dot rfl rfl, tickRule, ruleDashdelay_withKr, dotLen] at htick
  refine ⟨fun hcnt => htick.trans (congrArg _ ?count), fun hcnt => ?_⟩
  case count => rw [if_neg (Nat.not_le_of_lt hcnt)]; rfl
  rw [if_pos hcnt, decideAfterDash_withKr] at htick
  refine ⟨fun hdot => htick.trans (congrArg _ ?dot), fun hmem hdot hheld hdash => htick.trans (congrArg _ ?dash),
    fun hmem hdot hheld hdash => htick.trans (congrArg _ ?none)⟩
  case dot => rw [if_pos hdot, enterDot_withKr s _ (by exact hkey)]; rfl
  case dash =>
    rw [if_neg (not_asked hmem hdot hheld), if_pos hdash, enterDash_withKr s _ (by exact hkey)]
    rfl
  case none =>
    rw [if_neg (not_asked hmem hdot hheld), if_neg (by simp [hdash]), endSequence_withKr, hheld]
    split <;> rfl

/-- The decision after the letter space, by the two memories. -/
theorem decideAfterLetter_withKr (d h : Bool) (s : State) (k : KeyRegs) : decideAfterLetter d h (s.withKr k) =
    bif k.dashMem then bif k.dotMem then enterTied d h (s.withKr k) else enterDash d (s.withKr k)
    else bif k.dotMem then enterDot h (s.withKr k) else toKeyerState .exitloop (s.withKr k) := by
  unfold decideAfterLetter
  cases hdot : k.dotMem <;> cases hdash : k.dashMem <;> simp [hdot, hdash]

/-- Settles O48: the letter space counts, or the two latched memories decide. -/
theorem letterSpaceHonoursMemories : Obligations.LetterSpaceHonoursMemories := by
  intro s hrun hkey
  refine (exec_ksRow_of_run hrun (some .letterspace)).trans (congrArg _ ?_)
  rw [latchEdges_both rfl rfl, tickRule, ruleLetterspace_withKr, dotLen]
  by_cases hover : 2 * (1200 / s.kcfg.speed.toNat) ≤ s.kr.cnt.toNat + 1
  · rw [if_pos hover, if_neg (Nat.not_lt_of_le hover)]
    generalize (s.kr.dotMem || (s.paddle.dot && !s.kr.dotPrev)) = dotMem
    generalize (s.kr.dashMem || (s.paddle.dash && !s.kr.dashPrev)) = dashMem
    rw [decideAfterLetter_withKr]
    cases dashMem <;> cases dotMem
    case true.true =>
      rw [enterTied_withKr, enterDash_withKr s _ (by exact hkey), enterDot_withKr s _ (by exact hkey)]
      cases s.par.tieDashFirst <;> rfl
    case true.false => rw [enterDash_withKr s _ (by exact hkey)]; rfl
    case false.true => rw [enterDot_withKr s _ (by exact hkey)]; rfl
    case false.false => rfl
  · rw [if_neg hover, if_pos (Nat.lt_of_not_le hover)]
    rfl

/-! ### EXITLOOP and the unrecognised state -/

/-- Settles O49: the two cases of EXITLOOP, where no edge is latched. -/
theorem exitLoopRunsDownTheHangTime : Obligations.ExitLoopRunsDownTheHangTime := by
  intro s hrun
  have htick := exec_ksRow_of_run hrun (some .exitloop)
  rw [latchEdges_none rfl rfl, tickRule, ruleExitloop_withKr] at htick
  refine ⟨fun hvox => htick.trans (congrArg _ ?_), fun hvox => htick.trans (congrArg _ ?_)⟩
  · rw [if_neg hvox]; rfl
  · rw [if_pos hvox]; rfl

/-- Settles O50: the report and the forced key-up, where no edge is latched. -/
theorem unknownStateRecovers : Obligations.UnknownStateRecovers := by
  intro s hrun
  refine (exec_ksRow_of_run hrun none).trans (congrArg _ ?_)
  rw [latchEdges_none rfl rfl, tickRule, ruleUnknown_withKr]
  split <;> rfl

/-! ### The groups of events of a tick -/

/-- The groups of events that a tick may emit, where `x` is the code in `ks` (R245). -/
def tickGroups (x : BitVec 3) : List (List Event) :=
  [[], [.moxOn, .keyDown], [.keyDown], [.keyUp], [.moxOff], [.unknownKeyerState x],
    [.unknownKeyerState x, .keyUp]]

/-- From `s` to `t` the trace grew by one of the groups. -/
def EmitsGroup (x : BitVec 3) (s t : State) : Prop := ∃ es ∈ tickGroups x, t.trace = s.trace ++ es

namespace EmitsGroup
variable {x : BitVec 3}

theorem of_trace {s t : State} (es : List Event) (htrace : t.trace = s.trace ++ es)
    (hes : es ∈ tickGroups x := by simp [tickGroups]) : EmitsGroup x s t := ⟨es, hes, htrace⟩

theorem of_same {s t : State} (htrace : t.trace = s.trace := by rfl) : EmitsGroup x s t :=
  of_trace [] (by rw [htrace, List.append_nil])

theorem ite {c : Prop} [Decidable c] {s t u : State} (h : EmitsGroup x s t) (h' : EmitsGroup x s u) :
    EmitsGroup x s (if c then t else u) := by
  split
  · exact h
  · exact h'

theorem keyUp (s : State) : EmitsGroup x s (keyUp s) := of_trace [.keyUp] rfl

/-- The key goes down with one of two groups, and with nothing where it is down. -/
theorem keyDown (s : State) : EmitsGroup x s (keyDown s) := by
  cases hkey : s.kr.key with
  | true => rw [keyDown_down hkey]; exact of_same
  | false =>
    rw [keyDown_up hkey]
    cases s.kr.txReq
    · exact of_trace [.moxOn, .keyDown] rfl
    · exact of_trace [.keyDown] rfl

/-- An element begins with the events of `key_down()`. -/
theorem enterDot (h : Bool) (s : State) : EmitsGroup x s (enterDot h s) :=
  keyDown (s.withKr { s.kr with dotMem := false, dotHeld := false, dashHeld := h })

theorem enterDash (d : Bool) (s : State) : EmitsGroup x s (enterDash d s) :=
  keyDown (s.withKr { s.kr with dashMem := false, dashHeld := false, dotHeld := d })

theorem enterTied (d h : Bool) (s : State) : EmitsGroup x s (enterTied d h s) := ite (enterDash d s) (enterDot h s)

theorem idle (s : State) : EmitsGroup x s (idle s) := ite of_same of_same

theorem endSequence (s : State) : EmitsGroup x s (endSequence s) := ite of_same of_same

theorem ruleCheck (d h : Bool) (s : State) : EmitsGroup x s (ruleCheck d h s) :=
  ite (ite of_same (keyUp s)) (ite (ite (keyDown s) (ite (enterDot h s) (idle s)))
    (ite (enterTied d h s) (ite (enterDash d s) (ite (enterDot h s) (idle s)))))

/-- An element ends with the events of `key_up()`. -/
theorem endElement (st : KeyerState) (s : State) : EmitsGroup x s (endElement st s) := keyUp s

theorem decideAfterDot (d h : Bool) (s : State) (k : KeyRegs) :
    EmitsGroup x s (decideAfterDot d h (s.withKr k)) := by
  rw [decideAfterDot_withKr]
  exact ite (enterDash d (s.withKr _)) (ite (enterDot h (s.withKr _)) (endSequence (s.withKr _)))

theorem decideAfterDash (d h : Bool) (s : State) (k : KeyRegs) :
    EmitsGroup x s (decideAfterDash d h (s.withKr k)) := by
  rw [decideAfterDash_withKr]
  exact ite (enterDot h (s.withKr _)) (ite (enterDash d (s.withKr _)) (endSequence (s.withKr _)))

theorem decideAfterLetter (d h : Bool) (s : State) : EmitsGroup x s (decideAfterLetter d h s) :=
  ite (enterTied d h s) (ite (enterDash d s) (ite (enterDot h s) of_same))

theorem ruleExitloop (s : State) (k : KeyRegs) : EmitsGroup x s (ruleExitloop (s.withKr k)) := by
  rw [ruleExitloop_withKr]
  refine ite ?_ of_same
  cases k.txReq
  · exact of_same (List.append_nil _)
  · exact of_trace [.moxOff] rfl

/-- The unrecognised state is reported with the code it is, before the key is forced up. -/
theorem ruleUnknown (s : State) (k : KeyRegs) : EmitsGroup k.ks s (ruleUnknown (s.withKr k)) := by
  rw [ruleUnknown_withKr]
  cases k.key
  · exact of_trace [.unknownKeyerState k.ks] rfl
  · exact of_trace [.unknownKeyerState k.ks, .keyUp] rfl

/-- The rule of every state, from any registers, emits a group. -/
theorem tickRule (st : Option KeyerState) (d h : Bool) (s : State) (k : KeyRegs) :
    EmitsGroup k.ks s (tickRule st d h (s.withKr k)) := by
  match st with
  | some .check => exact ruleCheck d h (s.withKr k)
  | some .senddot => exact ite (endElement _ (s.withKr k)) of_same
  | some .senddash => exact ite (endElement _ (s.withKr k)) of_same
  | some .dotdelay => exact ite (decideAfterDot d h s k) of_same
  | some .dashdelay => exact ite (decideAfterDash d h s k) of_same
  | some .letterspace => exact ite (decideAfterLetter d h (s.withKr k)) of_same
  | some .exitloop => exact ruleExitloop s k
  | none => exact ruleUnknown s k

end EmitsGroup

/-- Settles O52: a running tick emits what its rule does, as latching edges leaves `ks` alone. -/
theorem tickEmitsOneGroup : Obligations.TickEmitsOneGroup := by
  intro s i hi
  have hencode : encode i = .keyTick := by
    revert i
    decide
  obtain ⟨st, rfl⟩ := exists_ksRow hencode
  cases hrun : s.run with
  | false => exact ⟨_, _, (needsRun_of_encode_keyTick hencode).stopped hrun, rfl, fun _ => rfl, by simp⟩
  | true =>
    obtain ⟨es, hes, htrace⟩ := EmitsGroup.tickRule st s.paddle.dot s.paddle.dash s
      (latchEdges st s.paddle.dot s.paddle.dash s.kr)
    exact ⟨_, es, exec_ksRow_of_run hrun st, htrace, by simp, fun _ => hes⟩

/-! ### The length of an element -/

/-- In state `st` with the counter below `len`, a running tick counts and touches neither `ks` nor the key; the
tick that reaches `len` brings the key up and leads to `next` with the counter at 0 (R228, R229). The bound
keeps the 16-bit counter from wrapping under any configuration. -/
structure Element (st next : KeyerState) (len : Kcfg → Nat) : Prop where
  bound : ∀ k, len k < 2 ^ 16
  counts : ∀ s : State, s.run = true → s.kr.cnt.toNat + 1 < len s.kcfg →
    ∃ k : KeyRegs, exec (ksRow (some st)) s = .next (s.withKr k) ∧ k.ks = s.kr.ks ∧
      k.cnt = s.kr.cnt + 1#16 ∧ k.key = s.kr.key
  ends : ∀ s : State, s.run = true → len s.kcfg ≤ s.kr.cnt.toNat + 1 →
    ∃ k : KeyRegs, exec (ksRow (some st)) s = .next ((s.withKr k).emit .keyUp) ∧
      k.ks = ksCodeOf s.par.ksCode next ∧ k.cnt = 0#16 ∧ k.key = false

theorem dotLen_le (k : Kcfg) : dotLen k ≤ 1200 := Nat.div_le_self _ _

/-- Even a weight beyond the legal ones keeps a dash below the counter's range. -/
theorem dashLen_lt (k : Kcfg) : dashLen k < 2 ^ 16 := by
  have hprod : dotLen k * 3 * k.weight.toNat ≤ 1200 * 3 * 127 :=
    Nat.mul_le_mul (Nat.mul_le_mul_right 3 (dotLen_le k)) (by omega)
  have hquot : dashLen k ≤ 1200 * 3 * 127 / 50 := Nat.div_le_div_right hprod
  omega

theorem element_senddot : Element .senddot .dotdelay dotLen where
  bound k := (dotLen_le k).trans_lt (by decide)
  counts s hrun hcnt := by
    rw [exec_ksRow_of_run hrun, tickRule, ruleSenddot_withKr, latchEdges_cnt, if_neg (Nat.not_le_of_lt hcnt)]
    exact ⟨_, rfl, rfl, rfl, rfl⟩
  ends s hrun hcnt := by
    rw [exec_ksRow_of_run hrun, tickRule, ruleSenddot_withKr, latchEdges_cnt, if_pos hcnt, endElement_withKr]
    exact ⟨_, rfl, rfl, rfl, rfl⟩

theorem element_senddash : Element .senddash .dashdelay dashLen where
  bound := dashLen_lt
  counts s hrun hcnt := by
    rw [exec_ksRow_of_run hrun, tickRule, ruleSenddash_withKr, latchEdges_cnt, if_neg (Nat.not_le_of_lt hcnt)]
    exact ⟨_, rfl, rfl, rfl, rfl⟩
  ends s hrun hcnt := by
    rw [exec_ksRow_of_run hrun, tickRule, ruleSenddash_withKr, latchEdges_cnt, if_pos hcnt, endElement_withKr]
    exact ⟨_, rfl, rfl, rfl, rfl⟩

/-- The step at a KEY_TICK performs the row of the state that `ks` names. -/
theorem step_keyTick {s : State} {st : KeyerState} {rest : List Request} (hpar : paramsWf s.par = true)
    (hks : s.kr.ks = ksCodeOf s.par.ksCode st) (hscript : s.script = .keyTick :: rest) :
    step s = exec (ksRow (some st)) (s.withScript rest) := by
  have hst : keyerStateOf s.par.ksCode s.kr.ks = some st := by
    rw [hks, keyerStateOf_ksCodeOf _ (ksCodeList_nodup_of_paramsWf hpar)]
  exact step_cons hscript (congrArg (fun o => Except.ok (ksRow o)) hst)

/-- The same after some ticks of a run, on the registers they led to. -/
theorem step_withKr_keyTick {s t : State} {k : KeyRegs} {st : KeyerState} {rest : List Request}
    (hpar : paramsWf s.par = true) (hks : k.ks = ksCodeOf s.par.ksCode st)
    (hexec : exec (ksRow (some st)) ((s.withKr k).withScript rest) = .next t) :
    step ((s.withKr k).withScript (.keyTick :: rest)) = .next t :=
  (step_keyTick (s := (s.withKr k).withScript (.keyTick :: rest)) hpar hks rfl).trans hexec

namespace Element
variable {st next : KeyerState} {len : Kcfg → Nat}

/-- Before its last tick an element only counts, by induction on the ticks. -/
theorem run_counts (h : Element st next len) {s : State} (hrun : s.run = true) (hpar : paramsWf s.par = true)
    (hcnt : s.kr.cnt = 0#16) (hks : s.kr.ks = ksCodeOf s.par.ksCode st) {n : Nat} (hn : n < max 1 (len s.kcfg))
    {rest : List Request} (hscript : s.script = List.replicate n .keyTick ++ rest) :
    ∃ k : KeyRegs, core.run n s = .next ((s.withKr k).withScript rest) ∧ k.ks = s.kr.ks ∧
      k.cnt.toNat = n ∧ k.key = s.kr.key := by
  induction n generalizing rest with
  | zero => exact ⟨s.kr, congrArg Host.Outcome.next (by rw [show rest = s.script from hscript.symm]; rfl), rfl,
      by rw [hcnt]; rfl, rfl⟩
  | succ n ih =>
    obtain ⟨k, hrunk, hksk, hcntk, hkeyk⟩ := ih (by omega) (rest := .keyTick :: rest)
      (by rw [hscript, List.replicate_succ', List.append_assoc, List.singleton_append])
    have hbound := h.bound s.kcfg
    obtain ⟨k', hexec, hks', hcnt', hkey'⟩ := h.counts ((s.withKr k).withScript rest) hrun
      (by simp only [withScript_kr, withKr_kr, withScript_kcfg, withKr_kcfg, hcntk]; omega)
    have hstep := step_withKr_keyTick hpar (hksk.trans hks) hexec
    refine ⟨k', run_succ_last hrunk hstep, hks'.trans hksk, ?_, hkey'.trans hkeyk⟩
    rw [hcnt', withScript_kr, withKr_kr, BitVec.toNat_add, hcntk]
    exact Nat.mod_eq_of_lt (by simp; omega)

/-- The timing law of an element: nothing happens before tick `L = max 1 len`, and that tick brings the key
up (R236 (a)). -/
theorem lasts (h : Element st next len) {s : State} (hrun : s.run = true) (hpar : paramsWf s.par = true)
    (hcnt : s.kr.cnt = 0#16) (hks : s.kr.ks = ksCodeOf s.par.ksCode st) {rest : List Request}
    (hscript : s.script = List.replicate (max 1 (len s.kcfg)) .keyTick ++ rest) :
    (∀ n < max 1 (len s.kcfg), ∃ t, core.run n s = .next t ∧ t.trace = s.trace ∧ t.kr.key = s.kr.key) ∧
    ∃ t, core.run (max 1 (len s.kcfg)) s = .next t ∧ t.trace = s.trace ++ [.keyUp] ∧ t.kr.key = false ∧
      t.kr.ks = ksCodeOf s.par.ksCode next ∧ t.kr.cnt = 0#16 := by
  have hsplit (n j : Nat) (hnj : max 1 (len s.kcfg) = n + j) :
      s.script = List.replicate n .keyTick ++ (List.replicate j .keyTick ++ rest) := by
    rw [hscript, hnj, List.replicate_add, List.append_assoc]
  refine ⟨fun n hn => ?_, ?_⟩
  · obtain ⟨k, hrunk, -, -, hkeyk⟩ := h.run_counts hrun hpar hcnt hks hn
      (hsplit n (max 1 (len s.kcfg) - n) (by omega))
    exact ⟨_, hrunk, rfl, hkeyk⟩
  · obtain ⟨m, hm⟩ : ∃ m, max 1 (len s.kcfg) = m + 1 := ⟨max 1 (len s.kcfg) - 1, by omega⟩
    obtain ⟨k, hrunk, hksk, hcntk, -⟩ := h.run_counts hrun hpar hcnt hks (n := m) (by omega) (hsplit m 1 hm)
    obtain ⟨k', hexec, hks', hcnt', hkey'⟩ := h.ends ((s.withKr k).withScript rest) hrun
      (by simp only [withScript_kr, withKr_kr, withScript_kcfg, withKr_kcfg, hcntk]; omega)
    have hstep := step_withKr_keyTick hpar (hksk.trans hks) hexec
    rw [hm]
    exact ⟨_, run_succ_last hrunk hstep, rfl, hkey', hks', hcnt'⟩

end Element

/-- Settles O51: the law of an element, for the dot and for the dash. -/
theorem elementLastsItsLength : Obligations.ElementLastsItsLength := fun _ _ hrun hpar hcnt =>
  ⟨fun hks hscript => element_senddot.lasts hrun hpar hcnt hks hscript,
    fun hks hscript => element_senddash.lasts hrun hpar hcnt hks hscript⟩

end Sys2Proof.Machine
end

section
/-! The frame of every instruction: which units it may write, that it appends to the trace and the results and
drops nothing, and that a row outside KEY_TICK emits no event of the key line (R6, R12, R21 to R35). -/

namespace Sys2Proof.Machine

/-! ### Events that say nothing of the key line -/

/-- No event of the list moves the key line or the transmit request as a consumer tracks them (R245). -/
def KeyNeutral (es : List Event) : Prop := ∀ e ∈ es, ∀ l, keyingAfter l e = some l

theorem KeyNeutral.nil : KeyNeutral [] := by simp [KeyNeutral]

theorem KeyNeutral.singleton {e : Event} (he : ∀ l, keyingAfter l e = some l := by intro l; rfl) :
    KeyNeutral [e] := by
  intro e' hmem
  rw [List.mem_singleton.1 hmem]
  exact he

theorem KeyNeutral.keyingOver {es : List Event} (h : KeyNeutral es) (l : Bool × Bool) :
    keyingOver l es = some l := by
  induction es with
  | nil => rfl
  | cons e es ih =>
    obtain ⟨he, hes⟩ := List.forall_mem_cons.1 h
    rw [Machine.keyingOver, he l]
    exact ih hes

/-! ### What an operation that needs the block to run can do -/

/-- It is performed, or refused while the block is stopped. -/
theorem whenRunning_cases {s t : State} {k : State → State} (h : whenRunning s k = .next t) :
    (s.run = true ∧ t = k s) ∨ (s.run = false ∧ t = refuse .notRunning s) := by
  rw [whenRunning_eq] at h
  cases hrun : s.run <;> rw [hrun] at h <;> cases h
  · exact .inr ⟨rfl, rfl⟩
  · exact .inl ⟨rfl, rfl⟩

/-- An accepted frame changes DEC, the paddle bits and the trace, and its events are not the key line's. -/
theorem acceptFrame_frame (f : Vector Byte 512) (s : State) : ∃ d pd es, KeyNeutral es ∧
    acceptFrame f s = { s with dec := d, paddle := pd, trace := s.trace ++ es } := by
  obtain ⟨es, htrace, hes⟩ := walkPeriods_events f s.cfg.nrx.toNat s.cfg.micGain
    (periodCount s.cfg.nrx.toNat) (takeStatus f s)
  have happend : (acceptFrame f s).trace = s.trace ++ .status (statusBytes f) :: es := by
    rw [acceptFrame, htrace]
    simp [takeStatus]
  refine ⟨(acceptFrame f s).dec, _, .status (statusBytes f) :: es, fun e hmem => ?_,
    happend ▸ acceptFrame_eq f s⟩
  obtain rfl | hwalk := List.mem_cons.1 hmem
  · exact fun l => rfl
  · obtain ⟨q, rfl⟩ | ⟨r, i, q, rfl⟩ := hes e hwalk <;> exact fun l => rfl

/-- A sync-lost frame changes DEC's SyncLost limiter and the trace at most. -/
theorem raise_syncLost_frame (now : Nat) (s : State) : ∃ d es, KeyNeutral es ∧
    raise (.syncLost now) s = { s with dec := d, trace := s.trace ++ es } := by
  rw [raise_syncLost]
  split
  · exact ⟨_, [.syncLost now], .singleton, rfl⟩
  · exact ⟨s.dec, [], .nil, by simp⟩

/-- The gap test changes SEQ and the trace. -/
theorem checkGap_frame (q : BitVec 32) (s : State) : ∃ x es, KeyNeutral es ∧
    checkGap q s = { s with sq := x, trace := s.trace ++ es } := by
  rw [checkGap_eq]
  refine ⟨_, _, ?_, rfl⟩
  split
  · exact .singleton
  · exact .nil

/-! ### CC_STEP -/

/-- What a state of CC_STEP decides: a refusal, or registers of CCG in which the countdown has not gone up, and
`TP` and `RX` as given. -/
def BodyFrame (s : State) (tp : Tp) (rx : Vector Rx 20) : CcOutcome → Prop
  | .refused _ => True
  | .done _ _ u =>
    ∃ x : CcgRegs, x.forceAll.toNat ≤ s.ccg.forceAll.toNat ∧ u = { s with tp := tp, rx := rx, ccg := x }

/-- The countdown does not go up. -/
theorem countDown_forceAll_le (s : State) : (countDown s).ccg.forceAll.toNat ≤ s.ccg.forceAll.toNat := by
  rw [countDown_eq, withCcg_ccg]
  dsimp only
  split
  · simp
  · bv_omega

/-- A body that leaves the registers as they are. -/
theorem bodyFrame_of_ccg (s : State) {b : Vector Byte 5} {next : BitVec 3} :
    BodyFrame s s.tp s.rx (.done b next s) := ⟨s.ccg, Nat.le_refl _, rfl⟩

theorem bodyFrame_cc0 (s : State) : BodyFrame s s.tp s.rx (ccBody0 s) := by
  unfold ccBody0
  split
  · trivial
  · exact bodyFrame_of_ccg s

theorem bodyFrame_cc1 (s : State) : BodyFrame s { s.tp with txFreqChanged := false } s.rx (ccBody1 s) :=
  ⟨s.ccg, Nat.le_refl _, rfl⟩

theorem bodyFrame_cc2 (s : State) : ∃ rx, BodyFrame s s.tp rx (ccBody2 s) := by
  cases hsel : rxSelected s with
  | none =>
    rw [ccBody2_of_none hsel]
    exact ⟨s.rx, _, countDown_forceAll_le s, rfl⟩
  | some r =>
    cases hx : rxfreqC0At s.par r with
    | none =>
      rw [ccBody2_of_no_command hsel hx]
      exact ⟨s.rx, trivial⟩
    | some x =>
      rw [ccBody2_of_some hsel hx]
      exact ⟨_, _, countDown_forceAll_le (putRx s r { rxAt s r with freqChanged := false }), rfl⟩

theorem bodyFrame_cc3 (s : State) : BodyFrame s s.tp s.rx (ccBody3 s) := by
  rw [ccBody3_eq]
  exact ⟨{ s.ccg with adcCache := route s }, Nat.le_refl _, rfl⟩

/-- A CC_STEP around such a body is refused, or writes CCG, and `TP` and `RX` as the body has them. -/
theorem ccStep_frame {s t : State} {tp : Tp} {rx : Vector Rx 20} {body : CcOutcome} (hbody : BodyFrame s tp rx body)
    (h : ccStep s body = .next t) : (∃ why, t = refuse why s) ∨
      ∃ x : CcgRegs, x.forceAll.toNat ≤ s.ccg.forceAll.toNat ∧ t = { s with tp := tp, rx := rx, ccg := x } := by
  obtain ⟨why, rfl⟩ | ⟨-, b, next, u, rfl, rfl⟩ := ccStep_cases h
  · exact .inl ⟨why, rfl⟩
  · obtain ⟨x, hforce, rfl⟩ := hbody
    exact .inr ⟨{ x with cc := withMox s b, rr := next }, hforce, rfl⟩

/-! ### Every instruction -/

/-- What each instruction may change from `s` to `t`: nothing but the trace where it is refused, else the units
that name it as their writer and the ends of the trace and the results. -/
inductive ExecFrame (s : State) : Instr → State → Prop
  | refused (i why) : ExecFrame s i (refuse why s)
  | decodeOk (f now d pd es) : KeyNeutral es →
      ExecFrame s (.decodeOk f now) { s with dec := d, paddle := pd, trace := s.trace ++ es }
  | decodeSynclost (f now d es) : KeyNeutral es →
      ExecFrame s (.decodeSynclost f now) { s with dec := d, trace := s.trace ++ es }
  | encode (b p r) : ExecFrame s (.encode b p) (s.answer r)
  | txWriteHdr (o x r) : ExecFrame s (.txWriteHdr o) ((s.answer r).withSq x)
  | txWriteNohdr (o x r) : ExecFrame s (.txWriteNohdr o) ((s.answer r).withSq x)
  | gapCheck (q x es) : KeyNeutral es → ExecFrame s (.gapCheck q) { s with sq := x, trace := s.trace ++ es }
  | startRunning : s.run = true → ExecFrame s .start s
  | startStopped : s.run = false → ExecFrame s .start (startBlock s)
  | stop : ExecFrame s .stop (resetUnits s)
  | cfgWrite (reg v pd x k tp rx) :
      ExecFrame s (.cfgWrite reg v) { s with paddle := pd, cfg := x, kcfg := k, tp := tp, rx := rx }
  | hwcmdStop (r) : ExecFrame s .hwcmdStop (s.answer r)
  | hwcmdStart (r) : ExecFrame s .hwcmdStart (s.answer r)
  | hwcmdStartWb (r) : ExecFrame s .hwcmdStartWb (s.answer r)
  | ccStep (i tp rx x) : Sys2Proof.encode i = .ccStep → (i ≠ .cc1 → tp = s.tp) → (i ≠ .cc2 → rx = s.rx) →
      x.forceAll.toNat ≤ s.ccg.forceAll.toNat → ExecFrame s i { s with tp := tp, rx := rx, ccg := x }
  | keyTick (i k es) : Sys2Proof.encode i = .keyTick → ExecFrame s i { s with kr := k, trace := s.trace ++ es }

/-- A row of CC_STEP around a body. -/
theorem ExecFrame.of_ccStep {s t : State} {i : Instr} {tp : Tp} {rx : Vector Rx 20} {body : CcOutcome}
    (hi : Sys2Proof.encode i = .ccStep) (hbody : BodyFrame s tp rx body) (h : Machine.ccStep s body = .next t)
    (htp : i ≠ .cc1 → tp = s.tp := by exact fun _ => rfl) (hrx : i ≠ .cc2 → rx = s.rx := by exact fun _ => rfl) :
    ExecFrame s i t := by
  obtain ⟨why, rfl⟩ | ⟨x, hforce, rfl⟩ := ccStep_frame hbody h
  · exact .refused i why
  · exact .ccStep i tp rx x hi htp hrx hforce

/-- A row of KEY_TICK whose rule has the keyer's frame. -/
theorem ExecFrame.of_keyTick {s t : State} {i : Instr} {st : Option KeyerState}
    {rule : Bool → Bool → State → State} (hi : Sys2Proof.encode i = .keyTick)
    (hr : ∀ d h u, KeyFrame u (rule d h u)) (h : Machine.keyTick st rule s = .next t) : ExecFrame s i t := by
  obtain ⟨k, es, rfl⟩ := KeyFrame.keyTick hr h
  exact .keyTick i k es hi

/-- An operation that needs the block to run keeps to its frame when its rule does. -/
theorem ExecFrame.of_whenRunning {s t : State} {i : Instr} {k : State → State} (hk : ExecFrame s i (k s))
    (h : whenRunning s k = .next t) : ExecFrame s i t := by
  obtain ⟨-, rfl⟩ | ⟨-, rfl⟩ := whenRunning_cases h
  · exact hk
  · exact .refused i _

/-- Every instruction keeps to its frame. -/
theorem exec_frame {i : Instr} {s t : State} (h : exec i s = .next t) : ExecFrame s i t := by
  cases i with
  | decodeOk f now =>
    obtain ⟨d, pd, es, hes, heq⟩ := acceptFrame_frame f s
    exact .of_whenRunning (heq ▸ .decodeOk f now d pd es hes) h
  | decodeSynclost f now =>
    obtain ⟨d, es, hes, heq⟩ := raise_syncLost_frame now s
    exact .of_whenRunning (heq ▸ .decodeSynclost f now d es hes) h
  | encode b p => cases h; exact .encode b p _
  | txWriteHdr o => exact .of_whenRunning (k := writeWithHeader o) (.txWriteHdr o _ _) h
  | txWriteNohdr o => exact .of_whenRunning (k := writeRaw o) (.txWriteNohdr o _ _) h
  | gapCheck q =>
    obtain ⟨x, es, hes, heq⟩ := checkGap_frame q s
    exact .of_whenRunning (heq ▸ .gapCheck q x es hes) h
  | start =>
    cases h
    split
    · next hrun => exact .startRunning hrun
    · next hrun => exact .startStopped (by simpa using hrun)
  | stop => cases h; exact .stop
  | cfgWrite reg v =>
    cases h
    cases hw : writeConfig reg v s with
    | none => exact .refused _ _
    | some u =>
      obtain ⟨pd, x, k, tp, rx, rfl⟩ := writeConfig_frame hw
      exact .cfgWrite reg v pd x k tp rx
  | hwcmdStop => cases h; exact .hwcmdStop _
  | hwcmdStart => cases h; exact .hwcmdStart _
  | hwcmdStartWb => cases h; exact .hwcmdStartWb _
  | cc0 => exact .of_ccStep rfl (bodyFrame_cc0 s) h
  | cc1 => exact .of_ccStep rfl (bodyFrame_cc1 s) h (htp := absurd rfl)
  | cc2 =>
    obtain ⟨rx, hbody⟩ := bodyFrame_cc2 s
    exact .of_ccStep rfl hbody h (hrx := absurd rfl)
  | cc3 => exact .of_ccStep rfl (bodyFrame_cc3 s) h
  | cc4 => exact .of_ccStep rfl (bodyFrame_of_ccg s) h
  | cc5 => exact .of_ccStep rfl (bodyFrame_of_ccg s) h
  | cc6 => exact .of_ccStep rfl (bodyFrame_of_ccg s) h
  | cc7 => exact .of_ccStep rfl (bodyFrame_of_ccg s) h
  | ksCheck => exact .of_keyTick rfl KeyFrame.ruleCheck h
  | ksSenddot => exact .of_keyTick rfl (fun _ _ => KeyFrame.ruleSenddot) h
  | ksSenddash => exact .of_keyTick rfl (fun _ _ => KeyFrame.ruleSenddash) h
  | ksDotdelay => exact .of_keyTick rfl KeyFrame.ruleDotdelay h
  | ksDashdelay => exact .of_keyTick rfl KeyFrame.ruleDashdelay h
  | ksLetterspace => exact .of_keyTick rfl KeyFrame.ruleLetterspace h
  | ksExitloop => exact .of_keyTick rfl (fun _ _ => KeyFrame.ruleExitloop) h
  | ksUnknown => exact .of_keyTick rfl (fun _ _ => KeyFrame.ruleUnknown) h

/-- No instruction writes the parameters, and the trace and the results grow at their ends. -/
theorem ExecFrame.grows {i : Instr} {s t : State} (h : ExecFrame s i t) :
    t.par = s.par ∧ (∃ es, t.trace = s.trace ++ es) ∧ ∃ rs, t.results = s.results ++ rs := by
  cases h with
  | encode | txWriteHdr | txWriteNohdr | hwcmdStop | hwcmdStart | hwcmdStartWb =>
    exact ⟨rfl, ⟨[], (List.append_nil _).symm⟩, [_], rfl⟩
  | startRunning | startStopped | stop | cfgWrite | ccStep =>
    exact ⟨rfl, ⟨[], (List.append_nil _).symm⟩, [], (List.append_nil _).symm⟩
  | refused | decodeOk | decodeSynclost | gapCheck | keyTick => exact ⟨rfl, ⟨_, rfl⟩, [], (List.append_nil _).symm⟩

/-- Settles O10: a step does nothing, or takes an operation from the script and performs it in its frame. -/
theorem parametersFixedAndOutputsOnlyGrow : Obligations.ParametersFixedAndOutputsOnlyGrow := by
  intro s t h
  obtain ⟨-, rfl⟩ | ⟨r, rest, i, -, -, hexec⟩ := step_cases h
  · exact ⟨rfl, ⟨[], (List.append_nil _).symm⟩, [], (List.append_nil _).symm⟩
  · exact (exec_frame hexec).grows

/-- Settles O11: each clause is the frame of the instructions that it does not except. -/
theorem eachUnitHasItsWriters : Obligations.EachUnitHasItsWriters := by
  intro i s t h
  cases exec_frame h with
  | ccStep i tp rx x hi htp hrx =>
    exact ⟨rfl, rfl, fun _ _ => ⟨rfl, rfl, fun _ => rfl, fun hne => absurd hi hne, fun _ _ => rfl, fun _ _ _ => rfl,
      fun _ _ => rfl⟩, fun _ => ⟨rfl, rfl, htp, hrx⟩, fun _ _ _ _ _ _ => rfl⟩
  | keyTick i k es hi =>
    exact ⟨rfl, rfl, fun _ _ => ⟨rfl, rfl, fun hne => absurd hi hne, fun _ => rfl, fun _ _ => rfl, fun _ _ _ => rfl,
      fun _ _ => rfl⟩, fun _ => ⟨rfl, rfl, fun _ => rfl, fun _ => rfl⟩, fun _ _ _ _ _ _ => rfl⟩
  | startRunning | startStopped =>
    exact ⟨rfl, rfl, fun hstart _ => absurd rfl hstart, fun _ => ⟨rfl, rfl, fun _ => rfl, fun _ => rfl⟩,
      fun _ _ _ _ _ _ => rfl⟩
  | stop =>
    exact ⟨rfl, rfl, fun _ hstop => absurd rfl hstop, fun _ => ⟨rfl, rfl, fun _ => rfl, fun _ => rfl⟩,
      fun _ _ _ _ _ _ => rfl⟩
  | _ => simp [encode]

end Sys2Proof.Machine
end

section
/-! The invariant: every tick leads from sound keyer registers to sound ones, with events that the key line
follows, and every other instruction keeps each part of the invariant (R58, R224 to R245, R265). -/

namespace Sys2Proof.Machine

/-! ### Sound keyer registers -/

/-- What `keyerSound` asks of the flags and the key in each state (R237, R245). -/
def StateFlags : KeyerState → KeyRegs → Prop
  | .check, k => k.dotMem = false ∧ k.dashMem = false ∧ k.dotHeld = false ∧ k.dashHeld = false
  | .senddot, k => k.dotMem = false ∧ k.dotHeld = false ∧ k.key = true
  | .senddash, k => k.dashMem = false ∧ k.dashHeld = false ∧ k.key = true
  | .dotdelay, k => k.dotMem = false ∧ k.dotHeld = false ∧ k.key = false ∧ k.txReq = true
  | .dashdelay, k => k.dashMem = false ∧ k.dashHeld = false ∧ k.key = false ∧ k.txReq = true
  | .letterspace, k => k.dotHeld = false ∧ k.dashHeld = false ∧ k.key = false ∧ k.txReq = true
  | .exitloop, k =>
    k.dotMem = false ∧ k.dashMem = false ∧ k.dotHeld = false ∧ k.dashHeld = false ∧ k.key = false

/-- The keyer's part of the invariant for registers in state `st`: the flags, the transmit request outlasting
the key and the hang time, and the ranges of the two counters (R58, R236 (e)). -/
structure SoundRegs (st : KeyerState) (k : KeyRegs) : Prop where
  flags : StateFlags st k
  request : k.key = true → k.txReq = true
  hang : k.cwvox = 0#16 ∨ k.txReq = true
  cnt : k.cnt.toNat ≤ 7199
  cwvox : k.cwvox.toNat ≤ 1023

/-- The invariant on the keyer's registers, state by state. -/
theorem keyerSound_iff (p : Params) (k : KeyRegs) : keyerSound p k = true ↔
    ∃ st, keyerStateOf p.ksCode k.ks = some st ∧ StateFlags st k ∧ (k.key = true → k.txReq = true) ∧
      (k.cwvox = 0#16 ∨ k.txReq = true) := by
  have himp : (!k.key || k.txReq) = true ↔ (k.key = true → k.txReq = true) := by
    cases k.key <;> simp
  unfold keyerSound
  cases keyerStateOf p.ksCode k.ks with
  | none => simp
  | some st => cases st <;> simp [StateFlags, himp, and_assoc]

/-- Sound registers that hold the code of their state meet the invariant. -/
theorem SoundRegs.keyerSound {st : KeyerState} {k : KeyRegs} (h : SoundRegs st k) {p : Params}
    (hcodes : (ksCodeList p.ksCode).Nodup) (hks : k.ks = ksCodeOf p.ksCode st) : keyerSound p k = true :=
  (keyerSound_iff p k).2 ⟨st, by rw [hks, keyerStateOf_ksCodeOf _ hcodes], h.flags, h.request, h.hang⟩

/-- The invariant gives sound registers in the state that `ks` names. -/
theorem Inv.soundRegs {s : State} (h : Inv s) :
    ∃ st, keyerStateOf s.par.ksCode s.kr.ks = some st ∧ SoundRegs st s.kr := by
  obtain ⟨st, hst, hflags, hrequest, hhang⟩ := (keyerSound_iff _ _).1 h.keyer
  have hcounters := h.counters
  simp only [countersInRange, Bool.and_eq_true, decide_eq_true_eq] at hcounters
  obtain ⟨⟨hcnt, hcwvox⟩, -⟩ := hcounters
  exact ⟨st, hst, hflags, hrequest, hhang, hcnt, hcwvox⟩

/-- Latching the edges of a tick keeps the registers sound: in no state does a window set a flag that must be
clear there. -/
theorem SoundRegs.latchEdges {st : KeyerState} {k : KeyRegs} (h : SoundRegs st k) (d d' : Bool) :
    SoundRegs st (latchEdges (some st) d d' k) := by
  refine ⟨?_, h.request, h.hang, h.cnt, h.cwvox⟩
  have hflags := h.flags
  cases st
  case check | exitloop => rwa [latchEdges_none rfl rfl]
  case senddot | dotdelay => rw [latchEdges_dash rfl rfl]; exact hflags
  case senddash | dashdelay => rw [latchEdges_dot rfl rfl]; exact hflags
  case letterspace => exact hflags

/-! ### What a rule leads to from sound registers -/

/-- From registers `k` of `s` a rule leads to `t`: sound registers that hold their state's code, and events that
the key line and the request of `k` follow to those of the new registers (R245). -/
def Keyed (s : State) (k : KeyRegs) (t : State) : Prop :=
  ∃ st k' es, t = { s with kr := k', trace := s.trace ++ es } ∧ k'.ks = ksCodeOf s.par.ksCode st ∧
    SoundRegs st k' ∧ keyingOver (k.key, k.txReq) es = some (k'.key, k'.txReq)

section
variable {s : State} {k : KeyRegs}

/-- Registers that change neither the key nor the request, with no event. -/
theorem Keyed.withKr {st : KeyerState} {k' : KeyRegs} (hks : k'.ks = ksCodeOf s.par.ksCode st)
    (hsound : SoundRegs st k') (hkey : k'.key = k.key) (hreq : k'.txReq = k.txReq) : Keyed s k (s.withKr k') :=
  ⟨st, k', [], by simp [State.withKr], hks, hsound, by rw [hkey, hreq]; rfl⟩

/-- The events with which the key goes down, from the key up (R224, R245). -/
theorem keyingOver_keyDown (req : Bool) :
    keyingOver (false, req) (if req then [.keyDown] else [.moxOn, .keyDown]) = some (true, true) := by
  cases req <;> rfl

/-- A dot begins. -/
theorem Keyed.enterDot {st : KeyerState} (h : SoundRegs st k) (hkey : k.key = false) (b : Bool) :
    Keyed s k (enterDot b (s.withKr k)) := by
  rw [enterDot_withKr s b hkey]
  exact ⟨.senddot, _, _, rfl, rfl, ⟨⟨rfl, rfl, rfl⟩, fun _ => rfl, .inr rfl, by simp, h.cwvox⟩,
    by rw [hkey]; exact keyingOver_keyDown _⟩

/-- A dash begins. -/
theorem Keyed.enterDash {st : KeyerState} (h : SoundRegs st k) (hkey : k.key = false) (b : Bool) :
    Keyed s k (enterDash b (s.withKr k)) := by
  rw [enterDash_withKr s b hkey]
  exact ⟨.senddash, _, _, rfl, rfl, ⟨⟨rfl, rfl, rfl⟩, fun _ => rfl, .inr rfl, by simp, h.cwvox⟩,
    by rw [hkey]; exact keyingOver_keyDown _⟩

/-- One of the two begins. -/
theorem Keyed.enterTied {st : KeyerState} (h : SoundRegs st k) (hkey : k.key = false) (d d' : Bool) :
    Keyed s k (enterTied d d' (s.withKr k)) := by
  rw [enterTied_withKr]
  split
  · exact Keyed.enterDash h hkey d
  · exact Keyed.enterDot h hkey d'

/-- The hang time is a 10-bit value. -/
theorem hang_le (x : Kcfg) : (x.hang.setWidth 16).toNat ≤ 1023 := by bv_omega

/-- An element ends in a state that asks nothing more than what the element's end gives. -/
theorem Keyed.endElement {st next : KeyerState} (h : SoundRegs st k) (hkey : k.key = true)
    (hflags : StateFlags next { k with key := false, cwvox := s.kcfg.hang.setWidth 16, cnt := 0#16,
                                       ks := ksCodeOf s.par.ksCode next }) :
    Keyed s k (endElement next (s.withKr k)) := by
  rw [endElement_withKr]
  exact ⟨next, _, [.keyUp], rfl, rfl, ⟨hflags, nofun, .inr (h.request hkey), by simp,
    hang_le s.kcfg⟩, by rw [hkey]; rfl⟩

/-- A tick that does not end the interval keeps the state, and the counter within its range. -/
theorem Keyed.countTick {st : KeyerState} (h : SoundRegs st k) (hks : k.ks = ksCodeOf s.par.ksCode st)
    {len : Nat} (hlen : len ≤ 7200) (hcnt : ¬ len ≤ k.cnt.toNat + 1) : Keyed s k (countTick (s.withKr k)) := by
  rw [countTick_withKr]
  refine Keyed.withKr (st := st) hks ⟨?_, h.request, h.hang, ?_, h.cwvox⟩ rfl rfl
  · have hflags := h.flags
    cases st <;> exact hflags
  · have hone : (k.cnt + 1#16).toNat ≤ k.cnt.toNat + 1 := by
      rw [BitVec.toNat_add]
      exact Nat.mod_le _ _
    show (k.cnt + 1#16).toNat ≤ 7199
    omega

/-- The sequence ends in LETTERSPACE or in EXITLOOP. -/
theorem Keyed.endSequence {st : KeyerState} (h : SoundRegs st k) (hkey : k.key = false) (hreq : k.txReq = true)
    (hdotMem : k.dotMem = false) (hdashMem : k.dashMem = false) (hdot : k.dotHeld = false)
    (hdash : k.dashHeld = false) : Keyed s k (endSequence (s.withKr k)) := by
  rw [endSequence_withKr]
  split
  · exact Keyed.withKr (st := .letterspace) rfl
      ⟨⟨hdot, hdash, hkey, hreq⟩, fun _ => hreq, .inr hreq, by simp, h.cwvox⟩ rfl rfl
  · exact Keyed.withKr (st := .exitloop) rfl
      ⟨⟨hdotMem, hdashMem, hdot, hdash, hkey⟩, fun _ => hreq, .inr hreq, h.cnt, h.cwvox⟩ rfl rfl

end

/-! ### The rules of the seven states -/

section
variable {s : State} {k : KeyRegs} (d h : Bool)

/-- CHECK, in the cases of R227. -/
theorem Keyed.ruleCheck (hk : SoundRegs .check k) (hks : k.ks = s.par.ksCode.check) :
    Keyed s k (ruleCheck d h (s.withKr k)) := by
  obtain ⟨hdotMem, hdashMem, hdotHeld, hdashHeld⟩ := hk.flags
  cases hkey : k.key with
  | true =>
    have hreq := hk.request hkey
    by_cases hheld : s.kcfg.mode = 0#2 ∧ h = true
    · rw [ruleCheck_held (s := s.withKr k) hkey hheld.1 hheld.2]
      exact Keyed.withKr (st := .check) hks hk rfl rfl
    · rw [ruleCheck_release (s := s.withKr k) hkey (by simpa [imp_iff_not_or] using hheld), keyUp_withKr]
      exact ⟨.check, _, [.keyUp], rfl, hks, ⟨hk.flags, nofun, .inr hreq, hk.cnt,
        hang_le s.kcfg⟩, by rw [hkey]; rfl⟩
  | false =>
    have hdot := Keyed.enterDot (s := s) hk hkey h
    have hdash := Keyed.enterDash (s := s) hk hkey d
    have htied := Keyed.enterTied (s := s) hk hkey d h
    have hstraight : Keyed s k (keyDown (s.withKr k)) := by
      rw [keyDown_withKr s hkey]
      exact ⟨.check, _, _, rfl, hks, ⟨hk.flags, fun _ => rfl, .inr rfl, hk.cnt, hk.cwvox⟩,
        by rw [hkey]; exact keyingOver_keyDown _⟩
    have hidle : Keyed s k (idle (s.withKr k)) := by
      rw [idle_withKr]
      split
      · exact Keyed.withKr (st := .exitloop) rfl
          ⟨⟨hdotMem, hdashMem, hdotHeld, hdashHeld, hkey⟩, hk.request, hk.hang, hk.cnt, hk.cwvox⟩ rfl rfl
      · exact Keyed.withKr (st := .check) hks hk rfl rfl
    by_cases hmode : s.kcfg.mode = 0#2
    · cases h with
      | true => rwa [ruleCheck_straight (s := s.withKr k) hkey hmode rfl]
      | false =>
        cases d with
        | true => rwa [ruleCheck_dot (s := s.withKr k) hkey rfl rfl]
        | false => rwa [ruleCheck_idle (s := s.withKr k) hkey rfl rfl]
    · cases h with
      | true =>
        cases d with
        | true => rwa [ruleCheck_tied (s := s.withKr k) hkey hmode rfl rfl]
        | false => rwa [ruleCheck_dash (s := s.withKr k) hkey hmode rfl rfl]
      | false =>
        cases d with
        | true => rwa [ruleCheck_dot (s := s.withKr k) hkey rfl rfl]
        | false => rwa [ruleCheck_idle (s := s.withKr k) hkey rfl rfl]

theorem Keyed.ruleSenddot (hk : SoundRegs .senddot k) (hks : k.ks = s.par.ksCode.senddot) :
    Keyed s k (ruleSenddot (s.withKr k)) := by
  obtain ⟨hmem, hheld, hkey⟩ := hk.flags
  rw [ruleSenddot_withKr]
  split
  · exact Keyed.endElement hk hkey ⟨hmem, hheld, rfl, hk.request hkey⟩
  · next hcnt => exact Keyed.countTick hk hks ((dotLen_le s.kcfg).trans (by decide)) hcnt

theorem Keyed.ruleSenddash (hweight : s.kcfg.weight.toNat ≤ 100) (hk : SoundRegs .senddash k)
    (hks : k.ks = s.par.ksCode.senddash) : Keyed s k (ruleSenddash (s.withKr k)) := by
  obtain ⟨hmem, hheld, hkey⟩ := hk.flags
  rw [ruleSenddash_withKr]
  split
  · exact Keyed.endElement hk hkey ⟨hmem, hheld, rfl, hk.request hkey⟩
  · next hcnt => exact Keyed.countTick hk hks (dashLen_le (dotLen_le s.kcfg) hweight) hcnt

theorem Keyed.ruleDotdelay (hk : SoundRegs .dotdelay k) (hks : k.ks = s.par.ksCode.dotdelay) :
    Keyed s k (ruleDotdelay d h (s.withKr k)) := by
  obtain ⟨hmem, hheld, hkey, hreq⟩ := hk.flags
  rw [ruleDotdelay_withKr]
  split
  · rw [decideAfterDot_withKr]
    generalize (if s.kcfg.mode = 1#2 ∧ d = false ∧ h = false then false else k.dashHeld) = b
    have hk' : SoundRegs .dotdelay { k with dashHeld := b } := ⟨hk.flags, hk.request, hk.hang, hk.cnt, hk.cwvox⟩
    show Keyed s { k with dashHeld := b } _
    dsimp only
    split
    · exact Keyed.enterDash hk' hkey d
    · next hnone =>
      split
      · exact Keyed.enterDot hk' hkey h
      · simp only [not_or, Bool.not_eq_true] at hnone
        obtain ⟨hdashMem, -, hdashHeld⟩ := hnone
        exact Keyed.endSequence hk' hkey hreq hmem hdashMem hheld hdashHeld
  · next hcnt => exact Keyed.countTick hk hks ((dotLen_le s.kcfg).trans (by decide)) hcnt

theorem Keyed.ruleDashdelay (hk : SoundRegs .dashdelay k) (hks : k.ks = s.par.ksCode.dashdelay) :
    Keyed s k (ruleDashdelay d h (s.withKr k)) := by
  obtain ⟨hmem, hheld, hkey, hreq⟩ := hk.flags
  rw [ruleDashdelay_withKr]
  split
  · rw [decideAfterDash_withKr]
    generalize (if s.kcfg.mode = 1#2 ∧ d = false ∧ h = false then false else k.dotHeld) = b
    have hk' : SoundRegs .dashdelay { k with dotHeld := b } := ⟨hk.flags, hk.request, hk.hang, hk.cnt, hk.cwvox⟩
    show Keyed s { k with dotHeld := b } _
    dsimp only
    split
    · exact Keyed.enterDot hk' hkey h
    · next hnone =>
      split
      · exact Keyed.enterDash hk' hkey d
      · simp only [not_or, Bool.not_eq_true] at hnone
        obtain ⟨hdotMem, -, hdotHeld⟩ := hnone
        exact Keyed.endSequence hk' hkey hreq hdotMem hmem hdotHeld hheld
  · next hcnt => exact Keyed.countTick hk hks ((dotLen_le s.kcfg).trans (by decide)) hcnt

theorem Keyed.ruleLetterspace (hk : SoundRegs .letterspace k) (hks : k.ks = s.par.ksCode.letterspace) :
    Keyed s k (ruleLetterspace d h (s.withKr k)) := by
  obtain ⟨hdotHeld, hdashHeld, hkey, hreq⟩ := hk.flags
  have hdot := dotLen_le s.kcfg
  rw [ruleLetterspace_withKr]
  split
  · rw [decideAfterLetter_withKr]
    cases hdash : k.dashMem <;> cases hdot : k.dotMem
    case true.true => exact Keyed.enterTied hk hkey d h
    case true.false => exact Keyed.enterDash hk hkey d
    case false.true => exact Keyed.enterDot hk hkey h
    case false.false =>
      exact Keyed.withKr (st := .exitloop) rfl
        ⟨⟨hdot, hdash, hdotHeld, hdashHeld, hkey⟩, hk.request, hk.hang, hk.cnt, hk.cwvox⟩ rfl rfl
  · next hcnt => exact Keyed.countTick hk hks (by omega) hcnt

theorem Keyed.ruleExitloop (hk : SoundRegs .exitloop k) (hks : k.ks = s.par.ksCode.exitloop) :
    Keyed s k (ruleExitloop (s.withKr k)) := by
  obtain ⟨hdotMem, hdashMem, hdotHeld, hdashHeld, hkey⟩ := hk.flags
  rw [ruleExitloop_withKr]
  split
  · next hvox =>
    refine ⟨.check, _, _, rfl, rfl, ⟨⟨hdotMem, hdashMem, hdotHeld, hdashHeld⟩, fun hdown => ?_, .inl hvox, hk.cnt,
      hk.cwvox⟩, ?_⟩
    · rw [hkey] at hdown
      cases hdown
    · rw [hkey]
      cases k.txReq <;> rfl
  · next hvox =>
    have hreq : k.txReq = true := hk.hang.resolve_left hvox
    have hcwvox := hk.cwvox
    exact Keyed.withKr (st := .exitloop) hks
      ⟨hk.flags, hk.request, .inr hreq, hk.cnt, by show (k.cwvox - 1#16).toNat ≤ 1023; bv_omega⟩ rfl rfl

/-- The rule of every state, from sound registers that hold its code. -/
theorem Keyed.tickRule {st : KeyerState} (hweight : s.kcfg.weight.toNat ≤ 100) (hk : SoundRegs st k)
    (hks : k.ks = ksCodeOf s.par.ksCode st) : Keyed s k (tickRule (some st) d h (s.withKr k)) := by
  cases st with
  | check => exact Keyed.ruleCheck d h hk hks
  | senddot => exact Keyed.ruleSenddot hk hks
  | senddash => exact Keyed.ruleSenddash hweight hk hks
  | dotdelay => exact Keyed.ruleDotdelay d h hk hks
  | dashdelay => exact Keyed.ruleDashdelay d h hk hks
  | letterspace => exact Keyed.ruleLetterspace d h hk hks
  | exitloop => exact Keyed.ruleExitloop hk hks

/-- The samples that a tick keeps are in no flag. -/
theorem Keyed.keepSamples {t : State} (hkeyed : Keyed s k t) : Keyed s k (keepSamples d h t) := by
  obtain ⟨st, k', es, rfl, hks, hsound, hkeying⟩ := hkeyed
  refine ⟨st, { k' with dotPrev := d, dashPrev := h }, es, rfl, hks,
    ⟨?_, hsound.request, hsound.hang, hsound.cnt, hsound.cwvox⟩, hkeying⟩
  have hflags := hsound.flags
  cases st <;> exact hflags

end

/-- A running tick in the state that `ks` names leads from sound registers to sound ones. -/
theorem Keyed.exec {s t : State} {st : KeyerState} (hrun : s.run = true) (hweight : s.kcfg.weight.toNat ≤ 100)
    (hk : SoundRegs st s.kr) (hks : s.kr.ks = ksCodeOf s.par.ksCode st)
    (h : exec (ksRow (some st)) s = .next t) : Keyed s s.kr t := by
  rw [exec_ksRow_of_run hrun] at h
  cases h
  exact Keyed.keepSamples _ _ (Keyed.tickRule (k := Machine.latchEdges (some st) s.paddle.dot s.paddle.dash s.kr) _ _
    hweight (hk.latchEdges _ _) hks)

/-! ### The invariant at the reset values -/

/-- The units of DEC and KEY at their reset values and the countdown in its range give the invariant, under
legal parameters and configuration. -/
theorem Inv.of_reset {t : State} (hpar : paramsWf t.par = true) (hcfg : legalConfig t = true)
    (hdec : t.dec = DecRegs.reset) (hkr : t.kr = KeyRegs.reset t.par) (hforce : t.ccg.forceAll.toNat ≤ 20)
    (hstop : stoppedAtReset t = true) : Inv t where
  params := hpar
  config := hcfg
  memory := by
    rw [memoryWf, hdec]
    exact memoryWf_reset
  batch := by
    have hbatch : 0 < t.par.batch := by
      simp only [paramsWf, Bool.and_eq_true, decide_eq_true_eq] at hpar
      exact hpar.1
    simp [buffersInBatch, hdec, DecRegs.reset, hbatch, SampleBuf.below]
  keyer := by
    have hsound : SoundRegs .check (KeyRegs.reset t.par) :=
      ⟨⟨rfl, rfl, rfl, rfl⟩, nofun, .inl rfl, by simp [KeyRegs.reset], by simp [KeyRegs.reset]⟩
    rw [hkr]
    exact hsound.keyerSound (ksCodeList_nodup_of_paramsWf hpar) rfl
  counters := by simp [countersInRange, hkr, KeyRegs.reset, hforce]
  stopped := hstop

/-- Power-on reset under any sensible parameters. -/
theorem inv_resetWith {p : Params} (hpar : paramsWf p = true) : Inv (State.resetWith p) :=
  Inv.of_reset hpar rfl rfl rfl (Nat.zero_le _) (by simp [stoppedAtReset, State.resetWith])

/-- Settles O7: the default parameters are sensible. -/
theorem invariantHoldsAtReset : Obligations.InvariantHoldsAtReset := inv_resetWith (by decide)

/-! ### The invariant under the other units' operations -/

section
variable {s t : State}

/-- A refusal is an event and no other change. -/
theorem Inv.refuse (h : Inv s) (why : RefuseReason) : Inv (refuse why s) :=
  ⟨h.params, h.config, h.memory, h.batch, h.keyer, h.counters, h.stopped⟩

theorem Inv.answer (h : Inv s) (r : Result) : Inv (s.answer r) :=
  ⟨h.params, h.config, h.memory, h.batch, h.keyer, h.counters, h.stopped⟩

theorem Inv.withScript (h : Inv s) (l : List Request) : Inv (s.withScript l) :=
  ⟨h.params, h.config, h.memory, h.batch, h.keyer, h.counters, h.stopped⟩

/-- STOP, from any state with legal parameters and configuration. -/
theorem Inv.resetUnits (h : Inv s) : Inv (resetUnits s) :=
  Inv.of_reset h.params h.config rfl rfl (Nat.zero_le _) (by simp [stoppedAtReset])

/-- The receiver count that START loads into the countdown is a legal one. -/
theorem Inv.nrx_le (h : Inv s) : s.cfg.nrx.toNat ≤ 20 := by
  have hconfig := h.config
  simp only [legalConfig, Bool.and_eq_true, decide_eq_true_eq] at hconfig
  obtain ⟨⟨⟨⟨⟨-, hmax⟩, -⟩, -⟩, -⟩, -⟩ := hconfig
  exact hmax

theorem Inv.weight_le (h : Inv s) : s.kcfg.weight.toNat ≤ 100 := by
  have hconfig := h.config
  simp only [legalConfig, Bool.and_eq_true, decide_eq_true_eq] at hconfig
  obtain ⟨⟨-, hmax⟩, -⟩ := hconfig
  exact hmax

theorem Inv.startBlock (h : Inv s) : Inv (startBlock s) :=
  Inv.of_reset h.params h.config rfl rfl h.nrx_le (by simp [stoppedAtReset])

/-- An accepted CFG_WRITE keeps the configuration legal: the four registers with a range are written with values
in it. -/
theorem legalConfig_writeConfig {reg : CfgReg} {v : Rat} (h : legalConfig s = true)
    (hw : writeConfig reg v s = some t) : legalConfig t = true := by
  cases reg <;> simp only [writeConfig, Option.map_eq_some_iff, Option.ite_none_right_eq_some] at hw
  case nrx | speed | weight | mode =>
    obtain ⟨b, hb, rfl⟩ := hw
    have hrange := asRange_eq_some hb
    simp only [legalConfig, Bool.and_eq_true, decide_eq_true_eq] at h ⊢
    tauto
  case micGain => cases hw; exact h
  case notConfig => cases hw
  case rxFreq | rxFreqChanged | rxAdc => obtain ⟨-, b, -, rfl⟩ := hw; exact h
  all_goals
    obtain ⟨b, -, rfl⟩ := hw
    exact h

theorem Inv.cfgWrite (h : Inv s) {reg : CfgReg} {v : Rat} (hexec : exec (.cfgWrite reg v) s = .next t) : Inv t := by
  cases hexec
  cases hw : writeConfig reg v s with
  | none => exact h.refuse _
  | some u =>
    have hlegal := legalConfig_writeConfig h.config hw
    obtain ⟨pd, x, k, tp, rx, rfl⟩ := writeConfig_frame hw
    exact ⟨h.params, hlegal, h.memory, h.batch, h.keyer, h.counters, h.stopped⟩

/-- A running block accepts a frame: the walk keeps the buffers canonical and within the batch. -/
theorem Inv.acceptFrame (h : Inv s) (hrun : s.run = true) (f : Vector Byte 512) : Inv (acceptFrame f s) := by
  have hmemory : memoryWf (Machine.acceptFrame f s) = true := memoryWf_walkPeriods f _ _ _ (takeStatus f s) h.memory
  have hbatch : buffersInBatch (Machine.acceptFrame f s) = true :=
    buffersInBatch_walkPeriods f _ _ _ (takeStatus f s) h.batch
  obtain ⟨d, pd, es, -, heq⟩ := acceptFrame_frame f s
  rw [heq] at hmemory hbatch ⊢
  exact ⟨h.params, h.config, hmemory, hbatch, h.keyer, h.counters, by simp [stoppedAtReset, hrun]⟩

/-- A running block drops a sync-lost frame: no buffer is touched. -/
theorem Inv.raise_syncLost (h : Inv s) (hrun : s.run = true) (now : Nat) : Inv (raise (.syncLost now) s) := by
  rw [Machine.raise_syncLost]
  split
  · exact ⟨h.params, h.config, h.memory, h.batch, h.keyer, h.counters, by simp [stoppedAtReset, hrun]⟩
  · exact h

/-- An operation that needs the block to run keeps the invariant when its rule does. -/
theorem Inv.whenRunning (h : Inv s) {k : State → State} (hk : s.run = true → Inv (k s))
    (hexec : whenRunning s k = .next t) : Inv t := by
  obtain ⟨hrun, rfl⟩ | ⟨-, rfl⟩ := whenRunning_cases hexec
  · exact hk hrun
  · exact h.refuse _

/-- The registers of SEQ are in the invariant of a stopped block alone. -/
theorem Inv.withSq (h : Inv s) (hrun : s.run = true) (x : SeqRegs) : Inv (s.withSq x) :=
  ⟨h.params, h.config, h.memory, h.batch, h.keyer, h.counters, by simp [stoppedAtReset, hrun]⟩

theorem Inv.checkGap (h : Inv s) (hrun : s.run = true) (q : BitVec 32) : Inv (checkGap q s) := by
  obtain ⟨x, es, -, heq⟩ := checkGap_frame q s
  rw [heq]
  exact ⟨h.params, h.config, h.memory, h.batch, h.keyer, h.counters, by simp [stoppedAtReset, hrun]⟩

/-- A row of CC_STEP: the countdown stays in its range as it does not go up. -/
theorem Inv.ccStep (h : Inv s) {i : Instr} (hi : encode i = .ccStep) (hexec : exec i s = .next t) : Inv t := by
  cases hrun : s.run with
  | false =>
    rw [(needsRun_of_encode_ccStep hi).stopped hrun] at hexec
    cases hexec
    exact h.refuse _
  | true =>
    cases exec_frame hexec with
    | refused i why => exact h.refuse why
    | ccStep i tp rx x _ _ _ hforce =>
      have hcounters := h.counters
      simp only [countersInRange, Bool.and_eq_true, decide_eq_true_eq] at hcounters
      obtain ⟨⟨hcnt, hcwvox⟩, hle⟩ := hcounters
      exact ⟨h.params, h.config, h.memory, h.batch, h.keyer,
        by simp [countersInRange, hcnt, hcwvox, hforce.trans hle], by simp [stoppedAtReset, hrun]⟩
    | keyTick i k es hkey => rw [hi] at hkey; cases hkey
    | _ => cases hi

/-- A running tick in the state that `ks` names. -/
theorem Inv.of_keyed (h : Inv s) (hrun : s.run = true) (hkeyed : Keyed s s.kr t) : Inv t := by
  obtain ⟨st, k, es, rfl, hks, hsound, -⟩ := hkeyed
  have hcounters := h.counters
  simp only [countersInRange, Bool.and_eq_true, decide_eq_true_eq] at hcounters
  obtain ⟨-, hforce⟩ := hcounters
  exact ⟨h.params, h.config, h.memory, h.batch,
    hsound.keyerSound (ksCodeList_nodup_of_paramsWf h.params) hks,
    by simp [countersInRange, hsound.cnt, hsound.cwvox, hforce], by simp [stoppedAtReset, hrun]⟩

/-! ### Every step -/

/-- A running row of KEY_TICK whose selector holds is a tick from sound registers to sound ones (R135). -/
theorem Inv.keyed (h : Inv s) (hrun : s.run = true) {x : Context} (hpar : x.par = s.par) (hks : x.ks = s.kr.ks)
    {i : Instr} (hi : encode i = .keyTick) (hsel : selects x i = true) (hexec : exec i s = .next t) :
    Keyed s s.kr t := by
  obtain ⟨st, hst, hsound⟩ := h.soundRegs
  have hrow := ksRow_of_selects (ksCodeList_nodup_of_paramsWf (hpar ▸ h.params)) hi hsel
  rw [hpar, hks, hst] at hrow
  subst hrow
  exact Keyed.exec hrun h.weight_le hsound (ksCodeOf_of_keyerStateOf hst) hexec

/-- A row of KEY_TICK whose selector holds, running or not. -/
theorem Inv.keyTick (h : Inv s) {x : Context} (hpar : x.par = s.par) (hks : x.ks = s.kr.ks) {i : Instr}
    (hi : encode i = .keyTick) (hsel : selects x i = true) (hexec : exec i s = .next t) : Inv t := by
  cases hrun : s.run with
  | false =>
    rw [(needsRun_of_encode_keyTick hi).stopped hrun] at hexec
    cases hexec
    exact h.refuse _
  | true => exact h.of_keyed hrun (h.keyed hrun hpar hks hi hsel hexec)

/-- Every instruction whose selector holds keeps the invariant. -/
theorem Inv.exec (h : Inv s) {x : Context} (hpar : x.par = s.par) (hks : x.ks = s.kr.ks) {i : Instr}
    (hsel : selects x i = true) (hexec : exec i s = .next t) : Inv t := by
  cases i with
  | decodeOk f now => exact h.whenRunning (fun hrun => h.acceptFrame hrun f) hexec
  | decodeSynclost f now => exact h.whenRunning (fun hrun => h.raise_syncLost hrun now) hexec
  | encode b p => cases hexec; exact h.answer _
  | txWriteHdr o => exact h.whenRunning (k := writeWithHeader o) (fun hrun => (h.answer _).withSq hrun _) hexec
  | txWriteNohdr o => exact h.whenRunning (k := writeRaw o) (fun hrun => (h.answer _).withSq hrun _) hexec
  | gapCheck q => exact h.whenRunning (fun hrun => h.checkGap hrun q) hexec
  | start =>
    cases hexec
    split
    · exact h
    · exact h.startBlock
  | stop => cases hexec; exact h.resetUnits
  | cfgWrite reg v => exact h.cfgWrite hexec
  | hwcmdStop | hwcmdStart | hwcmdStartWb => cases hexec; exact h.answer _
  | cc0 | cc1 | cc2 | cc3 | cc4 | cc5 | cc6 | cc7 => exact h.ccStep rfl hexec
  | ksCheck | ksSenddot | ksSenddash | ksDotdelay | ksDashdelay | ksLetterspace | ksExitloop | ksUnknown =>
    exact h.keyTick hpar hks rfl hsel hexec

end

/-- Settles O8: the instruction that a step performs is one whose selector holds. -/
theorem invariantKeptByEveryStep : Obligations.InvariantKeptByEveryStep := by
  intro s t hinv h
  obtain ⟨-, rfl⟩ | ⟨r, rest, i, -, hdecode, hexec⟩ := step_cases h
  · exact hinv
  · obtain ⟨-, hsel, -⟩ := decodedInstrIsSelectedAndWellFormed _ _ _ hdecode
    exact (hinv.withScript rest).exec rfl rfl hsel hexec

/-! ### The key line and the transmit request, as a consumer tracks them -/

/-- Outside KEY_TICK, and while the block goes on running, the keyer's registers stay and no event is the key
line's. -/
theorem ExecFrame.keyNeutral {s t : State} {i : Instr} (h : ExecFrame s i t) (hi : Sys2Proof.encode i ≠ .keyTick)
    (hrun : s.run = true) (hgoes : t.run = true) :
    t.kr = s.kr ∧ ∃ es, t.trace = s.trace ++ es ∧ KeyNeutral es := by
  cases h with
  | refused i why => exact ⟨rfl, [_], rfl, .singleton⟩
  | decodeOk f now d pd es hes => exact ⟨rfl, es, rfl, hes⟩
  | decodeSynclost f now d es hes => exact ⟨rfl, es, rfl, hes⟩
  | gapCheck q x es hes => exact ⟨rfl, es, rfl, hes⟩
  | startStopped hstop => rw [hrun] at hstop; cases hstop
  | stop => cases hgoes
  | keyTick i k es hkey => exact absurd hkey hi
  | encode | txWriteHdr | txWriteNohdr | startRunning | cfgWrite | hwcmdStop | hwcmdStart | hwcmdStartWb | ccStep =>
    exact ⟨rfl, [], (List.append_nil _).symm, .nil⟩

/-- Settles O53: a tick's events are followed by `Keyed`, and every other instruction's move nothing. -/
theorem keyEventsAlternate : Obligations.KeyEventsAlternate := by
  intro s t hinv hrun h hgoes
  obtain ⟨-, rfl⟩ | ⟨r, rest, i, -, hdecode, hexec⟩ := step_cases h
  · exact ⟨[], (List.append_nil _).symm, rfl⟩
  · by_cases hi : encode i = .keyTick
    · obtain ⟨-, hsel, -⟩ := decodedInstrIsSelectedAndWellFormed _ _ _ hdecode
      obtain ⟨st, k, es, rfl, -, -, hkeying⟩ := (hinv.withScript rest).keyed hrun rfl rfl hi hsel hexec
      exact ⟨es, rfl, hkeying⟩
    · obtain ⟨hkr, es, htrace, hes⟩ := (exec_frame hexec).keyNeutral hi hrun hgoes
      refine ⟨es, htrace, ?_⟩
      rw [hkr]
      exact hes.keyingOver _

end Sys2Proof.Machine
end

section
/-! START, STOP, CFG_WRITE and a stream of GAP_CHECKs: the reset values, the legal values of every configuration
register, and the sequence tracker over consecutive numbers (R23, R40 to R47, R178, R291, R292). -/

namespace Sys2Proof.Machine

/-! ### START and STOP -/

/-- A running block ignores START. -/
theorem exec_start_running {s : State} (h : s.run = true) : exec .start s = .next s := by
  simp [exec, execStart, h]

/-- Settles O26: `startBlock` on the state's fields; a block that was stopped ends no session. -/
theorem startLoadsTheCountdown : Obligations.StartLoadsTheCountdown := by
  refine fun s => ⟨exec_start_running, fun hstop => ?_⟩
  rw [exec_start_stopped hstop]
  simp [startBlock, resetUnits, hstop]

/-- No cell of a buffer holds a value after reset. -/
theorem cells_of_reset {t : State} (h : t.dec = DecRegs.reset) (r a : Nat) :
    iCell t r a = none ∧ qCell t r a = none ∧ micCell t a = none := by
  have hi : ibufAt DecRegs.reset r = [] := by
    unfold ibufAt
    split
    · exact Vector.getElem_replicate _
    · rfl
  have hq : qbufAt DecRegs.reset r = [] := by
    unfold qbufAt
    split
    · exact Vector.getElem_replicate _
    · rfl
  refine ⟨?_, ?_, ?_⟩
  · rw [iCell, h, hi, SampleBuf.read_nil]
  · rw [qCell, h, hq, SampleBuf.read_nil]
  · rw [micCell, h]
    rfl

/-- Settles O27: `resetUnits` on the state's fields, and the buffers it leaves. -/
theorem stopResetsEveryUnit : Obligations.StopResetsEveryUnit := fun _ =>
  ⟨_, rfl, rfl, rfl, rfl, rfl, rfl, rfl, rfl, cells_of_reset rfl⟩

/-! ### CFG_WRITE, written or refused -/

theorem exec_cfgWrite (reg : CfgReg) (v : Rat) (s : State) :
    exec (.cfgWrite reg v) s = .next ((writeConfig reg v s).getD (refuse .illegalValue s)) := rfl

/-- A value that is illegal, or a name that is no register, is refused. -/
theorem exec_cfgWrite_refused {reg : CfgReg} {v : Rat} {s : State} (hw : writeConfig reg v s = none) :
    exec (.cfgWrite reg v) s = .next { s with trace := s.trace ++ [.refused .illegalValue] } := by
  rw [exec_cfgWrite, hw]
  rfl

/-- A legal value is written. -/
theorem exec_cfgWrite_written {reg : CfgReg} {v : Rat} {s t : State} (hw : writeConfig reg v s = some t) :
    exec (.cfgWrite reg v) s = .next t := by
  rw [exec_cfgWrite, hw, Option.getD_some]

/-- A register whose write `f` takes the value `b` where it is legal (`c'`, said as `c`): written there, refused
elsewhere. -/
theorem written_or_refused {α : Type} {s : State} {f : α → State} {b : α} {c c' : Prop} [Decidable c] [Decidable c']
    (hc : c ↔ c') :
    Host.Outcome.next (φ := Fault) (ρ := Refusal)
        (((if c' then some b else none).map f).getD (refuse .illegalValue s)) =
      if c then .next (f b) else .next { s with trace := s.trace ++ [.refused .illegalValue] } := by
  by_cases h : c
  · rw [if_pos h, if_pos (hc.1 h)]
    rfl
  · rw [if_neg h, if_neg (fun h' => h (hc.2 h'))]
    rfl

/-! ### CFG_WRITE, register by register -/

/-- Settles O28: the range of each register is the one its value is read by. -/
theorem cfgWriteRangedRegisters : Obligations.CfgWriteRangedRegisters := by
  intro v s
  simp (disch := decide) only [exec_cfgWrite, writeConfig, asRange_natCast, asBits_natCast, asBit_natCast]
  exact ⟨written_or_refused Iff.rfl, written_or_refused Iff.rfl, written_or_refused (by omega),
    written_or_refused (by omega), written_or_refused (by omega), written_or_refused (by omega),
    written_or_refused (by omega)⟩

/-- Settles O29: each parameter is read by its width, and the band by none. -/
theorem cfgWriteTransmitParameters : Obligations.CfgWriteTransmitParameters := by
  intro v s
  simp only [exec_cfgWrite, writeConfig, asBits_natCast, asBit_natCast, asBand_natCast]
  refine ⟨?_, ?_, ?_, ?_, ?_, ?_, ?_, rfl, ?_, ?_, ?_, ?_, ?_, ?_, ?_, ?_⟩
  all_goals exact written_or_refused (by omega)

/-- A 32-bit value is read whole. -/
theorem asBits_toNat {w : Nat} (v : BitVec w) : asBits w (v.toNat : Rat) = some v := by
  rw [asBits_natCast, if_pos v.isLt, BitVec.ofNat_toNat, BitVec.setWidth_eq]

/-- A change flag is set by a value that differs from the one held, and kept by that one (R34). -/
theorem changed_eq {w : Nat} (flag : Bool) (v old : BitVec w) :
    (flag || v != old) = if v = old then flag else true := by
  by_cases h : v = old <;> simp [h]

/-- Settles O30: the frequency is written, and its flag follows `changed_eq`. -/
theorem cfgWriteFrequencySetsItsFlag : Obligations.CfgWriteFrequencySetsItsFlag := by
  refine fun v s => ⟨exec_cfgWrite_written ?_, fun r hr => exec_cfgWrite_written ?_⟩
  · rw [writeConfig, asBits_toNat, Option.map_some, putTxFreq, changed_eq]
    rfl
  · rw [writeConfig, if_pos hr, asBits_toNat, Option.map_some, putRxFreq, changed_eq, putRx_of_lt s hr,
      rxAt_of_lt s hr]

/-- Settles O31: the paddle bits, the gain, which takes every value, and the two other registers of a receiver. -/
theorem cfgWritePaddlesGainAndReceivers : Obligations.CfgWritePaddlesGainAndReceivers := by
  intro v g s
  refine ⟨?_, ?_, ?_, rfl, fun r hr => ?_, fun r hr => ?_⟩
  case refine_4 | refine_5 =>
    rw [exec_cfgWrite, writeConfig, if_pos hr]
    simp only [putRx_of_lt s hr, rxAt_of_lt s hr, asBits_natCast, asBit_natCast]
    exact written_or_refused (by omega)
  all_goals
    rw [exec_cfgWrite, writeConfig, asBit_natCast]
    exact written_or_refused Iff.rfl

/-- Every register but the gain reads its value as an unsigned integer. -/
theorem writeConfig_of_not_unsigned {reg : CfgReg} {v : Rat} (hv : v.den ≠ 1 ∨ v.num < 0) (hreg : reg ≠ .micGain)
    (s : State) : writeConfig reg v s = none := by
  have hbits (w : Nat) : asBits w v = none := asBits_eq_none (by tauto)
  cases reg <;>
    simp only [writeConfig, hbits, asBit_eq_none hv, asRange_eq_none hv, asBand_eq_none hv, Option.map_none, ite_self]
  case micGain => exact absurd rfl hreg

/-- There are 20 receivers. -/
theorem writeConfig_of_no_receiver {reg : CfgReg} {r : Nat} (hr : 20 ≤ r)
    (hreg : reg = .rxFreq r ∨ reg = .rxAdc r ∨ reg = .rxFreqChanged r) (v : Rat) (s : State) :
    writeConfig reg v s = none := by
  rcases hreg with rfl | rfl | rfl <;> exact if_neg (Nat.not_lt.2 hr)

/-- Settles O32: in each of the five cases nothing is written. -/
theorem cfgWriteRefusesWhatIsIllegal : Obligations.CfgWriteRefusesWhatIsIllegal := by
  intro reg v s h
  refine exec_cfgWrite_refused ?_
  have hwide (hv : 2 ^ 32 ≤ v.num) : asBits 32 v = none := asBits_eq_none (.inr (.inr hv))
  rcases h with ⟨hv, hreg⟩ | ⟨rfl, hv⟩ | ⟨r, rfl, hv⟩ | ⟨r, hr, hreg⟩ | ⟨name, rfl⟩
  · exact writeConfig_of_not_unsigned hv hreg s
  · rw [writeConfig, hwide hv, Option.map_none]
  · rw [writeConfig, hwide hv, Option.map_none, ite_self]
  · exact writeConfig_of_no_receiver hr hreg v s
  · rfl

/-! ### A stream of consecutive numbers -/

/-- A running block's step at a GAP_CHECK of a number that does not contradict the tracker moves the tracker and
reports nothing. -/
theorem step_gapCheck_of_expected {s : State} {q : BitVec 32} {rest : List Request} (hrun : s.run = true)
    (h : s.script = .gapCheck q.toNat :: rest) (hq : s.sq.lastSeenValid = false ∨ q = s.sq.lastSeen + 1#32) :
    step s = .next ((s.withScript rest).withSq { s.sq with lastSeen := q, lastSeenValid := true }) := by
  have hd : decode (fetchContext s) (.gapCheck q.toNat) = .ok (.gapCheck q) := by simp [decode, q.isLt]
  have hno : ¬ (s.sq.lastSeenValid = true ∧ q ≠ s.sq.lastSeen + 1#32) := by
    rcases hq with hq | hq <;> simp [hq]
  have hexec : exec (.gapCheck q) (s.withScript rest) = .next (checkGap q (s.withScript rest)) :=
    whenRunning_run (s := s.withScript rest) hrun _
  rw [step_cons h hd, hexec, checkGap_eq, withScript_sq, if_neg hno, List.append_nil]
  rfl

/-- GAP_CHECKs of the `n` numbers from `q` on, modulo 2^32. -/
def gapStream (q : BitVec 32) (n : Nat) : List Request :=
  (List.range n).map fun k => .gapCheck (q + BitVec.ofNat 32 k).toNat

theorem add_ofNat_succ (q : BitVec 32) (k : Nat) : q + BitVec.ofNat 32 (k + 1) = q + 1#32 + BitVec.ofNat 32 k := by
  rw [Nat.add_comm, BitVec.ofNat_add, BitVec.add_assoc]

/-- After the first number, a stream is the stream from its successor. -/
theorem gapStream_succ (q : BitVec 32) (n : Nat) :
    gapStream q (n + 1) = .gapCheck q.toNat :: gapStream (q + 1#32) n := by
  rw [gapStream, List.range_succ_eq_map, List.map_cons, BitVec.add_zero, List.map_map, gapStream]
  exact congrArg _ (List.map_congr_left fun k _ =>
    congrArg (fun w : BitVec 32 => Request.gapCheck w.toNat) (add_ofNat_succ q k))

/-- Settles O24, by induction on the length of the stream. -/
theorem consecutiveNumbersGiveNoGap : Obligations.ConsecutiveNumbersGiveNoGap := by
  intro n
  induction n with
  | zero => exact fun q s _ _ _ => ⟨s, rfl, rfl, fun h => absurd h (Nat.lt_irrefl 0)⟩
  | succ n ih =>
    intro q s hrun hexpected hscript
    have hstep := step_gapCheck_of_expected hrun (hscript.trans (gapStream_succ q n)) hexpected
    obtain ⟨t, ht, htrace, hlast⟩ := ih (q + 1#32)
      ((s.withScript (gapStream (q + 1#32) n)).withSq { s.sq with lastSeen := q, lastSeenValid := true })
      hrun (.inr rfl) rfl
    refine ⟨t, (run_succ_of_step hstep n).trans ht, htrace, fun _ => ?_⟩
    rw [add_ofNat_succ q n]
    rcases Nat.eq_zero_or_pos n with rfl | hpos
    · cases ht
      exact ⟨rfl, (BitVec.add_zero _).symm⟩
    · exact hlast hpos

end Sys2Proof.Machine
end

section
/-! CCG again: what CC0 sends, which receiver CC2 selects, the routing bytes, and the cycle of the round robin
(R115, R195 to R212). -/

namespace Sys2Proof.Machine

/-! ### CC0 -/

/-- A byte in which the default layout puts one field from bit 0 and two more from bits `lo` and `lo'` upwards. -/
theorem layoutByte_of_three_fields {s : State} (h : s.par.layout = defaultLayout) {k : Fin 8} {b : Fin 5}
    {x y z : CcField} {lo lo' : Nat} (hrows : (defaultLayout.rows.filter fun r => r.state == k && r.byte == b) =
      [⟨k, x, b, 0⟩, ⟨k, y, b, lo⟩, ⟨k, z, b, lo'⟩]) (f : BitVec 32) :
    layoutByte s k f b = ccField s f x ||| ccField s f y <<< lo ||| ccField s f z <<< lo' := by
  rw [layoutByte_eq h, hrows, List.foldl_cons, List.foldl_cons, List.foldl_cons, List.foldl_nil, BitVec.zero_or,
    BitVec.shiftLeft_zero]

/-- A receiver count that its field can express. -/
theorem ccBody0_of_fits {s : State} (h : s.cfg.nrx.toNat ≤ 2 ^ s.par.nrxWidth) :
    ccBody0 s = .done (stateBytes s 0) 1#3 s := if_neg (Nat.not_lt.2 h)

/-- Settles O33: the fields of the four bytes, the refusal, and no event where there is none. -/
theorem cc0SendsGeneralConfiguration : Obligations.Cc0SendsGeneralConfiguration := by
  refine fun s hrun => ⟨fun h hfits => ?_, fun hwide => ?_, fun hfits => ?_⟩
  · rw [exec_cc0, ccBody0_of_fits hfits, ccStep_stateBytes h hrun, layoutByte_of_three_fields h rfl,
      layoutByte_of_two_fields h rfl, layoutByte_of_two_fields h rfl, layoutByte_of_three_fields h rfl]
    rfl
  · rw [exec_cc0, ccBody0, if_pos hwide, ccStep_refused hrun]
    rfl
  · rw [exec_cc0, ccBody0_of_fits hfits, ccStep_done hrun]
    exact ⟨_, rfl, rfl⟩

/-! ### The receiver that CC2 selects -/

/-- With the countdown at 0 the first changed receiver is looked for. -/
theorem rxSelected_of_zero {s : State} (h : s.ccg.forceAll = 0#5) :
    rxSelected s = (List.range s.cfg.nrx.toNat).find? fun r => (rxAt s r).freqChanged := by
  simp [rxSelected, h]

/-- Settles O35: the countdown's receiver, or what `find?` finds in ascending order. -/
theorem cc2SelectsTheReceiver : Obligations.Cc2SelectsTheReceiver := by
  refine fun s => ⟨fun hpos => if_pos hpos, fun hzero r => ?_, fun hzero => ?_⟩
  · rw [rxSelected_of_zero hzero, List.find?_range_eq_some]
    simp only [List.mem_range, Bool.not_eq_true']
    tauto
  · rw [rxSelected_of_zero hzero, List.find?_range_eq_none]
    simp only [Bool.not_eq_true']

/-! ### The routing bytes -/

/-- Two bits placed at bit `2j` of a byte are read back there, and nothing is read beside them. -/
theorem extractLsb'_shifted_pair (x : BitVec 2) (i j : Fin 4) :
    (x.setWidth 8 <<< (2 * i.val)).extractLsb' (2 * j.val) 2 = if i = j then x else 0#2 := by
  revert x i j
  decide

/-- The pair of bits of receiver `r` (R115). -/
def routePair (s : State) (r : Nat) : BitVec 2 :=
  if r < s.cfg.nrx.toNat ∧ r < 16 then (rxAt s r).adc else 0#2

/-- A routing byte is its four pairs, each at its place. -/
theorem routeByte_eq (s : State) (k : Nat) : routeByte s k =
    (routePair s (4 * k + 0)).setWidth 8 <<< (2 * (0 : Fin 4).val) |||
    (routePair s (4 * k + 1)).setWidth 8 <<< (2 * (1 : Fin 4).val) |||
    (routePair s (4 * k + 2)).setWidth 8 <<< (2 * (2 : Fin 4).val) |||
    (routePair s (4 * k + 3)).setWidth 8 <<< (2 * (3 : Fin 4).val) := by
  have hpair (j i : Nat) : (if 4 * k + j < min s.cfg.nrx.toNat 16 then
      (rxAt s (4 * k + j)).adc.setWidth 8 <<< i else 0#8) = (routePair s (4 * k + j)).setWidth 8 <<< i := by
    simp only [routePair, lt_min_iff]
    split <;> simp
  simp only [routeByte, hpair]
  rfl

/-- Settles O38: of the four pairs only the one at bit `2j` is read. -/
theorem routeBytesPackTheAdcFields : Obligations.RouteBytesPackTheAdcFields := by
  intro s k j hk hj
  rw [← routePair, routeByte_eq]
  obtain ⟨i, rfl⟩ : ∃ i : Fin 4, i.val = j := ⟨⟨j, hj⟩, rfl⟩
  simp only [BitVec.extractLsb'_or, extractLsb'_shifted_pair]
  fin_cases i <;> simp

/-! ### The cycle of the round robin -/

/-- A running block's step at a CC_STEP whose state decides its bytes. -/
theorem step_ccStep_done {s u : State} {rest : List Request} {i : Instr} {b : Vector Byte 5} {next : BitVec 3}
    (hrun : s.run = true) (hscript : s.script = .ccStep :: rest) (hrow : ccRow s.ccg.rr = i)
    (hexec : exec i (s.withScript rest) = ccStep (s.withScript rest) (.done b next u)) :
    step s = .next (u.withCcg { u.ccg with cc := withMox (s.withScript rest) b, rr := next }) := by
  have hd : decode (fetchContext s) .ccStep = .ok i := congrArg Except.ok hrow
  rw [step_cons hscript hd, hexec, ccStep_done (by exact hrun)]

/-- State 2 with a command byte for the receiver it selects: bytes, and nothing changed that the rest of the
cycle reads. -/
theorem ccBody2_done {s : State} (h : ∀ r, rxSelected s = some r → rxfreqC0At s.par r ≠ none) :
    ∃ b u, ccBody2 s = .done b 3#3 u ∧ u.run = s.run ∧ u.trace = s.trace ∧ u.script = s.script ∧
      u.ccg.adcCache = s.ccg.adcCache ∧ route u = route s := by
  cases hsel : rxSelected s with
  | none => exact ⟨_, _, ccBody2_of_none hsel, rfl, rfl, rfl, rfl, rfl⟩
  | some r =>
    obtain ⟨x, hx⟩ := Option.ne_none_iff_exists'.1 (h r hsel)
    exact ⟨_, _, ccBody2_of_some hsel hx, rfl, rfl, rfl, rfl, route_clearFlag s r⟩

/-- From `s` to `t`, visits of CC_STEP that refused nothing and left the routing bytes as they were: the block
runs on in state `next` with the rest of the script. -/
structure CcVisited (s t : State) (next : BitVec 3) (rest : List Request) : Prop where
  run : t.run = true
  rr : t.ccg.rr = next
  script : t.script = rest
  trace : t.trace = s.trace
  route : route t = route s

theorem CcVisited.trans {s t u : State} {i j : BitVec 3} {l l' : List Request} (h : CcVisited s t i l)
    (h' : CcVisited t u j l') : CcVisited s u j l' :=
  ⟨h'.run, h'.rr, h'.script, h'.trace.trans h.trace, h'.route.trans h.route⟩

section
variable {s : State} {rest : List Request} (hrun : s.run = true)
include hrun

/-- State 0, where the receiver count fits. -/
theorem visit_cc0 (hrr : s.ccg.rr = 0#3) (hscript : s.script = .ccStep :: rest)
    (hfits : s.cfg.nrx.toNat ≤ 2 ^ s.par.nrxWidth) : ∃ t, step s = .next t ∧ CcVisited s t 1#3 rest ∧
      t.ccg.adcCache = s.ccg.adcCache ∧ rxSelected t = rxSelected s ∧ t.par = s.par := by
  have hexec : exec .cc0 (s.withScript rest) = ccStep (s.withScript rest)
      (.done (stateBytes (s.withScript rest) 0) 1#3 (s.withScript rest)) :=
    congrArg (ccStep _) (ccBody0_of_fits (s := s.withScript rest) hfits)
  exact ⟨_, step_ccStep_done hrun hscript (by rw [hrr]; rfl) hexec, ⟨hrun, rfl, rfl, rfl, rfl⟩, rfl, rfl, rfl⟩

/-- State 1. -/
theorem visit_cc1 (hrr : s.ccg.rr = 1#3) (hscript : s.script = .ccStep :: rest) :
    ∃ t, step s = .next t ∧ CcVisited s t 2#3 rest ∧ t.ccg.adcCache = s.ccg.adcCache ∧
      rxSelected t = rxSelected s ∧ t.par = s.par :=
  ⟨_, step_ccStep_done hrun hscript (i := .cc1) (by rw [hrr]; rfl) rfl, ⟨hrun, rfl, rfl, rfl, rfl⟩, rfl, rfl, rfl⟩

/-- State 2, where the selected receiver has a command byte. -/
theorem visit_cc2 (hrr : s.ccg.rr = 2#3) (hscript : s.script = .ccStep :: rest)
    (hsel : ∀ r, rxSelected s = some r → rxfreqC0At s.par r ≠ none) :
    ∃ t, step s = .next t ∧ CcVisited s t 3#3 rest ∧ t.ccg.adcCache = s.ccg.adcCache := by
  obtain ⟨b, u, hbody, hrunu, htrace, hscriptu, hcache, hroute⟩ := ccBody2_done (s := s.withScript rest) hsel
  have hexec : exec .cc2 (s.withScript rest) = ccStep (s.withScript rest) (.done b 3#3 u) :=
    congrArg (ccStep _) hbody
  exact ⟨_, step_ccStep_done hrun hscript (by rw [hrr]; rfl) hexec,
    ⟨hrunu.trans hrun, rfl, hscriptu, htrace, hroute⟩, hcache⟩

/-- State 3: the cache takes the routing bytes, and state 4 is next where they differed. -/
theorem visit_cc3 (hrr : s.ccg.rr = 3#3) (hscript : s.script = .ccStep :: rest) :
    ∃ t, step s = .next t ∧ CcVisited s t (if route s = s.ccg.adcCache then 5#3 else 4#3) rest ∧
      t.ccg.adcCache = route s := by
  have hexec := congrArg (ccStep (s.withScript rest)) (ccBody3_eq (s.withScript rest))
  exact ⟨_, step_ccStep_done hrun hscript (i := .cc3) (by rw [hrr]; rfl) hexec, ⟨hrun, rfl, rfl, rfl, rfl⟩, rfl⟩

/-- State 4. -/
theorem visit_cc4 (hrr : s.ccg.rr = 4#3) (hscript : s.script = .ccStep :: rest) :
    ∃ t, step s = .next t ∧ CcVisited s t 5#3 rest ∧ t.ccg.adcCache = s.ccg.adcCache :=
  ⟨_, step_ccStep_done hrun hscript (i := .cc4) (by rw [hrr]; rfl) rfl, ⟨hrun, rfl, rfl, rfl, rfl⟩, rfl⟩

/-- State 5. -/
theorem visit_cc5 (hrr : s.ccg.rr = 5#3) (hscript : s.script = .ccStep :: rest) :
    ∃ t, step s = .next t ∧ CcVisited s t 6#3 rest ∧ t.ccg.adcCache = s.ccg.adcCache :=
  ⟨_, step_ccStep_done hrun hscript (i := .cc5) (by rw [hrr]; rfl) rfl, ⟨hrun, rfl, rfl, rfl, rfl⟩, rfl⟩

/-- State 6. -/
theorem visit_cc6 (hrr : s.ccg.rr = 6#3) (hscript : s.script = .ccStep :: rest) :
    ∃ t, step s = .next t ∧ CcVisited s t 7#3 rest ∧ t.ccg.adcCache = s.ccg.adcCache :=
  ⟨_, step_ccStep_done hrun hscript (i := .cc6) (by rw [hrr]; rfl) rfl, ⟨hrun, rfl, rfl, rfl, rfl⟩, rfl⟩

/-- State 7. -/
theorem visit_cc7 (hrr : s.ccg.rr = 7#3) (hscript : s.script = .ccStep :: rest) :
    ∃ t, step s = .next t ∧ CcVisited s t 0#3 rest ∧ t.ccg.adcCache = s.ccg.adcCache :=
  ⟨_, step_ccStep_done hrun hscript (i := .cc7) (by rw [hrr]; rfl) rfl, ⟨hrun, rfl, rfl, rfl, rfl⟩, rfl⟩

/-- From state 0, four visits store the routing bytes and lead past state 4 or to it. -/
theorem run_cc0_to_cc3 (hrr : s.ccg.rr = 0#3) (hfits : s.cfg.nrx.toNat ≤ 2 ^ s.par.nrxWidth)
    (hsel : ∀ r, rxSelected s = some r → rxfreqC0At s.par r ≠ none)
    (hscript : s.script = List.replicate 4 .ccStep ++ rest) : ∃ t, core.run 4 s = .next t ∧
      CcVisited s t (if route s = s.ccg.adcCache then 5#3 else 4#3) rest ∧ t.ccg.adcCache = route s := by
  obtain ⟨t0, hstep0, hv0, hcache0, hsel0, hpar0⟩ := visit_cc0 hrun hrr hscript hfits
  obtain ⟨t1, hstep1, hv1, hcache1, hsel1, hpar1⟩ := visit_cc1 hv0.run hv0.rr hv0.script
  rw [← hsel0, ← hsel1, ← hpar0, ← hpar1] at hsel
  obtain ⟨t2, hstep2, hv2, hcache2⟩ := visit_cc2 hv1.run hv1.rr hv1.script hsel
  obtain ⟨t3, hstep3, hv3, hcache3⟩ := visit_cc3 hv2.run hv2.rr hv2.script
  have hv012 := (hv0.trans hv1).trans hv2
  rw [hcache2, hcache1, hcache0, hv012.route] at hv3
  refine ⟨t3, ?_, hv012.trans hv3, hcache3.trans hv012.route⟩
  rw [run_succ_of_step hstep0, run_succ_of_step hstep1, run_succ_of_step hstep2, run_succ_of_step hstep3, run_zero]

/-- From state 5, three visits lead to state 0. -/
theorem run_cc5_to_cc7 (hrr : s.ccg.rr = 5#3) (hscript : s.script = List.replicate 3 .ccStep ++ rest) :
    ∃ t, core.run 3 s = .next t ∧ CcVisited s t 0#3 rest ∧ t.ccg.adcCache = s.ccg.adcCache := by
  obtain ⟨t5, hstep5, hv5, hcache5⟩ := visit_cc5 hrun hrr hscript
  obtain ⟨t6, hstep6, hv6, hcache6⟩ := visit_cc6 hv5.run hv5.rr hv5.script
  obtain ⟨t7, hstep7, hv7, hcache7⟩ := visit_cc7 hv6.run hv6.rr hv6.script
  refine ⟨t7, ?_, (hv5.trans hv6).trans hv7, hcache7.trans (hcache6.trans hcache5)⟩
  rw [run_succ_of_step hstep5, run_succ_of_step hstep6, run_succ_of_step hstep7, run_zero]

end

/-- Settles O42: four visits, state 4 where the routing differed from the cache, and three more. -/
theorem roundRobinReturnsInSevenOrEight : Obligations.RoundRobinReturnsInSevenOrEight := by
  refine fun s hrun hrr hfits hsel rest => ⟨fun hroute hscript => ?_, fun hroute hscript => ?_⟩
  · obtain ⟨t, hrunt, hv, hcache⟩ := run_cc0_to_cc3 hrun hrr hfits hsel
      (rest := List.replicate 3 .ccStep ++ rest) hscript
    rw [if_pos hroute] at hv
    obtain ⟨u, hrunu, hv', hcache'⟩ := run_cc5_to_cc7 hv.run hv.rr hv.script
    exact ⟨u, (run_add hrunt 3).trans hrunu, hv'.rr, hcache'.trans (hcache.trans hroute), hv'.trace.trans hv.trace⟩
  · obtain ⟨t, hrunt, hv, hcache⟩ := run_cc0_to_cc3 hrun hrr hfits hsel
      (rest := List.replicate 4 .ccStep ++ rest) hscript
    rw [if_neg hroute] at hv
    obtain ⟨t4, hstep4, hv4, hcache4⟩ := visit_cc4 hv.run hv.rr hv.script
    obtain ⟨u, hrunu, hv', hcache'⟩ := run_cc5_to_cc7 hv4.run hv4.rr hv4.script
    exact ⟨u, (run_add hrunt 4).trans ((run_succ_of_step hstep4 3).trans hrunu), hv'.rr,
      hcache'.trans (hcache4.trans hcache), ((hv.trans hv4).trans hv').trace⟩

end Sys2Proof.Machine
end

section
/-! DEC again: the value of a sample, and the whole event list of an accepted frame with its hand-off (R105, R146 to
R150). -/

namespace Sys2Proof.Machine

/-! ### The value of a sample -/

/-- Inside a space the byte read is the one there. -/
theorem spaceByte_of_lt {n : Nat} (f : Vector Byte n) {i : Nat} (h : i < n) : spaceByte f i = f[i] := dif_pos h

/-- Two bytes, the first most significant. -/
theorem memRead_two {n : Nat} (f : Vector Byte n) {a : Nat} (h : a + 1 < n) :
    memRead f a 2 = f[a].toNat * 256 + f[a + 1].toNat := by
  simp only [memRead, Nat.add_zero, spaceByte_of_lt f h, spaceByte_of_lt f (Nat.lt_of_succ_lt h)]
  omega

/-- Three bytes, the first most significant. -/
theorem memRead_three {n : Nat} (f : Vector Byte n) {a : Nat} (h : a + 2 < n) :
    memRead f a 3 = f[a].toNat * 65536 + f[a + 1].toNat * 256 + f[a + 2].toNat := by
  rw [memRead, memRead_two f (Nat.lt_of_succ_lt h), spaceByte_of_lt f h]
  omega

/-- The sign of 24 bits is that of their first byte. -/
theorem sext_three_bytes (b0 b1 b2 : Byte) : sext 24 (b0.toNat * 65536 + b1.toNat * 256 + b2.toNat) =
    (b0.toNat * 65536 + b1.toNat * 256 + b2.toNat : Int) - if b0.toNat < 128 then 0 else 16777216 := by
  have h1 := b1.isLt
  have h2 := b2.isLt
  unfold sext
  split <;> split <;> omega

/-- The sign of 16 bits is that of their first byte. -/
theorem sext_two_bytes (b0 b1 : Byte) : sext 16 (b0.toNat * 256 + b1.toNat) =
    (b0.toNat * 256 + b1.toNat : Int) - if b0.toNat < 128 then 0 else 65536 := by
  have h1 := b1.isLt
  unfold sext
  split <;> split <;> omega

/-- Settles O18: the bytes read in order, their sign, and the one value below -1. -/
theorem sampleValuesAreExact : Obligations.SampleValuesAreExact := by
  refine ⟨fun f a h => ?_, fun f g a h => ?_⟩
  · have hvalue := congrArg (fun v : Nat => (sext 24 v : Rat) / (8388607 : Rat)) (memRead_three f h)
    simp only [sext_three_bytes] at hvalue
    refine ⟨hvalue, fun h0 h1 h2 => hvalue.trans_lt ?_⟩
    rw [h0, h1, h2]
    norm_num
  · have hvalue := congrArg (fun v : Nat => (sext 16 v : Rat) * g) (memRead_two f h)
    simp only [sext_two_bytes] at hvalue
    exact hvalue

/-! ### The events of the walk -/

section
variable (f : Vector Byte 512) (n : Nat) (g : Rat)

/-- The `Mic` event of period `p`. -/
def micEvent (p : Nat) : Event := .mic (micValue f g (periodBase n p + 6 * n))

/-- The hand-off of `n` receivers' buffers, as they stand in `s`. -/
def handOffEvents (s : State) : List Event :=
  (List.range n).map fun r => .readyForDsp r (ibufContents s r) (qbufContents s r)

variable {s : State} (hidx : s.dec.idx < s.par.batch)
include hidx

/-- Period `k` of the walk adds its `Mic` event, and the hand-off where it fills the batch. -/
theorem walkPeriods_succ_trace (k : Nat) : (walkPeriods f n g (k + 1) s).trace =
    (walkPeriods f n g k s).trace ++ micEvent f n g k ::
      if (s.dec.idx + k) % s.par.batch + 1 = s.par.batch then handOffEvents n (walkPeriods f n g (k + 1) s)
      else [] := by
  obtain ⟨-, -, -, d, es, hw⟩ := DecFrame.walkPeriods f n g k s
  have hpar : (walkPeriods f n g k s).par = s.par := by rw [hw]
  rw [walkPeriods_succ, samplePeriod_trace, walkPeriods_idx f n g k s hidx, hpar]
  rfl

/-- Until the batch fills there is one `Mic` event a period. -/
theorem walkPeriods_trace_of_not_full {k : Nat} (hk : k < s.par.batch - s.dec.idx) :
    (walkPeriods f n g k s).trace = s.trace ++ (List.range k).map (micEvent f n g) := by
  induction k with
  | zero => simp [walkPeriods_zero]
  | succ k ih =>
    have hnot : ¬ (s.dec.idx + k) % s.par.batch + 1 = s.par.batch := by
      rw [Nat.mod_eq_of_lt (by omega)]
      omega
    rw [walkPeriods_succ_trace f n g hidx, if_neg hnot, ih (by omega), List.range_succ, List.map_append,
      List.append_assoc]
    rfl

/-- From the period that fills the batch on, and for less than a batch more, the hand-off stands after that period's
`Mic` event. -/
theorem walkPeriods_trace_of_full {k : Nat} (hfull : s.par.batch - s.dec.idx ≤ k) (hk : k ≤ s.par.batch) :
    (walkPeriods f n g k s).trace = s.trace ++ ((List.range (s.par.batch - s.dec.idx)).map (micEvent f n g) ++
      handOffEvents n (walkPeriods f n g (s.par.batch - s.dec.idx) s) ++
      ((List.range k).drop (s.par.batch - s.dec.idx)).map (micEvent f n g)) := by
  induction k, hfull using Nat.le_induction with
  | base =>
    obtain ⟨m, hm⟩ : ∃ m, s.par.batch - s.dec.idx = m + 1 := ⟨s.par.batch - s.dec.idx - 1, by omega⟩
    have hlast : (s.dec.idx + m) % s.par.batch + 1 = s.par.batch := by
      rw [Nat.mod_eq_of_lt (by omega)]
      omega
    rw [hm, walkPeriods_succ_trace f n g hidx, if_pos hlast, walkPeriods_trace_of_not_full f n g hidx (by omega),
      List.drop_of_length_le (by simp), List.range_succ]
    simp
  | succ k hfull ih =>
    have hnot : ¬ (s.dec.idx + k) % s.par.batch + 1 = s.par.batch := by
      rw [Nat.mod_eq_sub_mod (by omega), Nat.mod_eq_of_lt (by omega)]
      omega
    have hdrop : (List.range (k + 1)).drop (s.par.batch - s.dec.idx) =
        (List.range k).drop (s.par.batch - s.dec.idx) ++ [k] := by
      rw [List.range_succ, List.drop_append_of_le_length (by simpa using hfull)]
    rw [walkPeriods_succ_trace f n g hidx, if_neg hnot, ih (by omega), hdrop]
    simp

/-- A cell before `idx` is none that the walk up to the full batch stores. -/
theorem before_idx_not_written {a p : Nat} (ha : a < s.dec.idx) (hp : p < s.par.batch - s.dec.idx) :
    a ≠ (s.dec.idx + p) % s.par.batch := by
  rw [Nat.mod_eq_of_lt (by omega)]
  omega

/-- The I cells of a walk that has just filled the batch: this frame's samples from `idx` on, the earlier ones as they
were. -/
theorem iCell_walkPeriods_full (hn : n ≤ 20) {r a : Nat} (hr : r < n) (ha : a < s.par.batch) :
    iCell (walkPeriods f n g (s.par.batch - s.dec.idx) s) r a = if s.dec.idx ≤ a then
      some (sampleValue f (periodBase n (a - s.dec.idx) + 6 * r)) else iCell s r a := by
  split
  next hle =>
    have hcell := iCell_walkPeriods_stored (f := f) (g := g) hidx (Nat.sub_le _ _) hn
      (p := a - s.dec.idx) (k := s.par.batch - s.dec.idx) (by omega) hr
    rwa [Nat.add_sub_cancel' hle, Nat.mod_eq_of_lt ha] at hcell
  next hlt => exact iCell_walkPeriods_kept hidx (.inr fun p hp => before_idx_not_written hidx (by omega) hp)

/-- The Q cells of a walk that has just filled the batch. -/
theorem qCell_walkPeriods_full (hn : n ≤ 20) {r a : Nat} (hr : r < n) (ha : a < s.par.batch) :
    qCell (walkPeriods f n g (s.par.batch - s.dec.idx) s) r a = if s.dec.idx ≤ a then
      some (sampleValue f (periodBase n (a - s.dec.idx) + 6 * r + 3)) else qCell s r a := by
  split
  next hle =>
    have hcell := qCell_walkPeriods_stored (f := f) (g := g) hidx (Nat.sub_le _ _) hn
      (p := a - s.dec.idx) (k := s.par.batch - s.dec.idx) (by omega) hr
    rwa [Nat.add_sub_cancel' hle, Nat.mod_eq_of_lt ha] at hcell
  next hlt => exact qCell_walkPeriods_kept hidx (.inr fun p hp => before_idx_not_written hidx (by omega) hp)

/-- The hand-off of a walk that has just filled the batch carries those cells. -/
theorem handOffEvents_walkPeriods (hn : n ≤ 20) :
    handOffEvents n (walkPeriods f n g (s.par.batch - s.dec.idx) s) = (List.range n).map fun r => .readyForDsp r
      ((List.range s.par.batch).map fun a => if s.dec.idx ≤ a then
          sampleValue f (periodBase n (a - s.dec.idx) + 6 * r)
        else (iCell s r a).getD (Config.unwrittenCell s.session 0 r a))
      ((List.range s.par.batch).map fun a => if s.dec.idx ≤ a then
          sampleValue f (periodBase n (a - s.dec.idx) + 6 * r + 3)
        else (qCell s r a).getD (Config.unwrittenCell s.session 1 r a)) := by
  obtain ⟨-, -, -, d, es, hw⟩ := DecFrame.walkPeriods f n g (s.par.batch - s.dec.idx) s
  have hpar : (walkPeriods f n g (s.par.batch - s.dec.idx) s).par = s.par := by rw [hw]
  have hsession : (walkPeriods f n g (s.par.batch - s.dec.idx) s).session = s.session := by rw [hw]
  refine List.map_congr_left fun r hr => ?_
  have hr : r < n := List.mem_range.1 hr
  rw [ibufContents, qbufContents, hpar, hsession]
  congr 1
  · refine List.map_congr_left fun a ha => ?_
    rw [iCell_walkPeriods_full f n g hidx hn hr (List.mem_range.1 ha)]
    split <;> rfl
  · refine List.map_congr_left fun a ha => ?_
    rw [qCell_walkPeriods_full f n g hidx hn hr (List.mem_range.1 ha)]
    split <;> rfl

end

/-- Settles O15: the events are those of the walk from the state that has taken the STATUS bytes. -/
theorem handOffCarriesTheFullBuffers : Obligations.HandOffCarriesTheFullBuffers := by
  intro f now s hrun hidx hn hfit
  have hidx' : (takeStatus f s).dec.idx < (takeStatus f s).par.batch := hidx
  refine ⟨acceptFrame f s, exec_decodeOk_of_run hrun f now, fun hlt => ?_, fun hle => ?_⟩
  · refine (walkPeriods_trace_of_not_full f _ s.cfg.micGain hidx' hlt).trans ?_
    exact List.append_assoc ..
  · refine (walkPeriods_trace_of_full f _ s.cfg.micGain hidx' hle hfit).trans ?_
    rw [handOffEvents_walkPeriods f _ s.cfg.micGain hidx' hn]
    exact List.append_assoc ..

end Sys2Proof.Machine
end
